-- ==== Sys2Proof/Word.lean ====
section
/-! DEFINITION. The word types of the BCT-8: octets, 16-bit counters, and the numbers of lines, channels, slots and script entries. -/

namespace Sys2Proof

/-- An octet of the trunk or of a line (00_scope.md, Conventions). -/
abbrev Octet := BitVec 8

/-- A 16-bit quantity: a counter, a frame set, a two-octet field. -/
abbrev Half := BitVec 16

/-- A line, line 0 to line 7. -/
abbrev LineNo := Fin 8

/-- A poll channel, channel 0 to channel 7. -/
abbrev ChannelNo := Fin 8

/-- A data slot, slot 0 to slot 27. -/
abbrev SlotNo := Fin 28

/-- A Script Store entry, entry 0 to entry 63. -/
abbrev EntryNo := Fin 64

end Sys2Proof
end

