-- ==== Sys2Proof/Syntax.lean ====
section
/-! DEFINITION. The commands of the block: one constructor for each row of spec/opcode_table.json. A row names one step of the part, whole and indivisible (95_what_each_step_holds.md). -/

namespace Sys2Proof

/-- The steps of the BCT-8. Events of lines and channels carry the number of the line or channel; events of
the trunk receive pair carry what was received. The rows that are management commands carry nothing: the
command executed is the one at the head of the Command Input Buffer, which holds its code, tag and
parameters (R155; log 2). -/
inductive Instr where
  /-- The framer begins the next upstream frame (R1, R2, R14, R94, R105). -/
  | upstreamFrameStart
  /-- The next data slot of the frame in progress is sent (R96). -/
  | upstreamDataSlot
  /-- The management slot of the frame in progress is sent (R100). -/
  | managementSlot
  /-- The frame that carried the Enter Quiet response is complete (R177). -/
  | quietEntry
  /-- What was sampled on the trunk receive pair since the last such step, first received first: `bits`, then the bits
  of the whole octets `octets`. A frame is judged when the last bit of its 32nd octet is among them (R3 to R9, R182;
  log 6). -/
  | downstreamFrameJudged (bits : List Bool) (octets : List Octet)
  /-- The receiver has sampled the last stop bit: bit `k - 1` of `samples` is the sample of bit position `k`
  (R25, R26). -/
  | characterComplete (line : LineNo) (samples : BitVec 11)
  /-- LnRX has been high for a whole bit time in BREAK_HOLD (R27). -/
  | breakHoldEnd (line : LineNo)
  /-- LnRX has been high for a whole character time in SETTLE (R38). -/
  | settleEnd (line : LineNo)
  /-- The gap timer expires (R58). -/
  | gapExpiry (line : LineNo)
  /-- The timer of an unbegun reply wait expires (R122). -/
  | replyTimeout (line : LineNo)
  /-- The one-bit rest on LnTX ends (R117). -/
  | transmitRestEnd (line : LineNo)
  /-- The last element of the record being sent ends (R119). -/
  | transmitRecordEnd (line : LineNo)
  /-- An interval counter runs out (R137). -/
  | pollIntervalExpiry (channel : ChannelNo)
  /-- The Poll Arbiter grants an eligible channel (R142, R145). -/
  | pollGrant
  /-- The Supervision Timer expires (R175). -/
  | supervisionExpiry
  /-- VDD is below 2.7 V (R169). -/
  | powerOnReset
  /-- RSTN has been low for 10 µs (R169). -/
  | pinReset
  /-- The power-on or pin reset ends (R169). -/
  | resetEnd
  /-- A transition on TRXP/TRXN (R179). -/
  | trunkWake
  /-- A falling edge on LnRX of a receiver in WATCH (R179). -/
  | lineWake (line : LineNo)
  /-- Read Ident (R165). -/
  | readIdent
  /-- Read Events (R160). -/
  | readEvents
  /-- Read Counters (R162). -/
  | readCounters
  /-- Reset with scope DEVICE (R170). -/
  | resetDevice
  /-- Reset with scope LINES (R166). -/
  | resetLines
  /-- Reset with scope COUNTERS (R167). -/
  | resetCounters
  /-- Set Supervision (R174). -/
  | setSupervision
  /-- Enter Quiet (R176). -/
  | enterQuiet
  /-- Set Line (R22). -/
  | setLine
  /-- Read Line (R23). -/
  | readLine
  /-- Line Control with receiver action ON (R32; log 3). -/
  | receiverOn
  /-- Line Control with receiver action OFF (R33; log 3). -/
  | receiverOff
  /-- Line Control with transmitter action ON (R124; log 3). -/
  | transmitterOn
  /-- Line Control with transmitter action OFF (R125; log 3). -/
  | transmitterOff
  /-- Line Control with the flush flag (R126; log 3). -/
  | flush
  /-- Write Station (R46). -/
  | writeStation
  /-- Invalidate Station (R48). -/
  | invalidateStation
  /-- Read Station (R49). -/
  | readStation
  /-- Write Slot (R91). -/
  | writeSlot
  /-- Read Slot (R92). -/
  | readSlot
  /-- Swap Banks (R93). -/
  | swapBanks
  /-- Write Script (R131). -/
  | writeScript
  /-- Read Script (R132). -/
  | readScript
  /-- Set Channel (R134). -/
  | setChannel
  /-- Read Channel (R135). -/
  | readChannel
  /-- Poll Control with action ARM (R138). -/
  | arm
  /-- Poll Control with action MASK (R139). -/
  | mask
  /-- Poll Control with action POLL_NOW (R140). -/
  | pollNow
  /-- Set Arbitration (R143). -/
  | setArbitration
  /-- Read Buffer (R87). -/
  | readBuffer
  /-- A command whose code names no command (R157). -/
  | unknownCommand
  /-- A command record marked overlength (R152). -/
  | overlengthCommand
  /-- Line Control (R31). -/
  | lineControl
  /-- A falling edge on LnRX (R24). -/
  | startEdge (line : LineNo)
  /-- The sample at the middle of the start bit, high or low (R24). -/
  | startBitSample (line : LineNo) (level : Bool)
  /-- LnRX goes low in BREAK_HOLD or SETTLE (R27, R38). -/
  | lineLowInWait (line : LineNo)
  deriving DecidableEq, Repr

end Sys2Proof
end

