-- ==== Sys2Proof/Decode.lean ====
section
/-! DEFINITION. The decoder over the rows of spec/opcode_table.json that give bits. No row gives any ("fixed" and "fields" are absent or empty in all 56), so no word spells a command (log 20). -/

namespace Sys2Proof

/-- The command that a word spells by the table's bits. No row of the table gives bits: always none. -/
def decodeTableWord (_nbits _w : Nat) : Option Instr := none

end Sys2Proof
end

