-- ==== Sys2Proof/Config.lean ====
section
/-! DEFINITION. What is fixed for the part: the sizes of its stores and queues (R76, R78, R100, R153, R158), the part code (R188), and the two identification values fixed at manufacture (R164), which have no body. -/

namespace Sys2Proof.Config

/-- Blocks of the Shared Buffer (R76). -/
def blocks : Nat := 512

/-- Octets of a block (R76). -/
def blockSize : Nat := 16

/-- Record descriptors (R76). -/
def descriptors : Nat := 192

/-- Free blocks an upstream claim may not go below (R78). -/
def blockReserve : Nat := 32

/-- Free descriptors an upstream claim may not go below (R78). -/
def descReserve : Nat := 16

/-- Character entries of a line's stage (02_line_receivers.md, section 2.3). -/
def stageSize : Nat := 4

/-- Records of a line's downstream queue (R116). -/
def downQueueSize : Nat := 16

/-- Commands of the Command Input Buffer (R153). -/
def commandBufferSize : Nat := 4

/-- Responses of the Response Queue (R158). -/
def responseQueueSize : Nat := 4

/-- The most parameter octets of a command that is stored (R152). -/
def maxParameters : Nat := 40

/-- The most result octets of a response (R158). -/
def maxResults : Nat := 60

/-- The sync octet (R1, R183). -/
def sync : Octet := 0xD3

/-- Fill (R1). -/
def fill : Octet := 0x00

/-- What an octet of the Shared Buffer reads as before anything was stored in it. DESIGN CHOICE, unsafe (log 10). -/
def unwritten : Octet := 0x00

/-- The part code (R164, R188). -/
def partCode : Half := 0x0B18

/-- The silicon revision, fixed at manufacture (R164); no value is known (log 18). -/
opaque revision : Octet

/-- The unit number, fused at manufacture (R164); no value is known (log 18). -/
opaque unitNumber : BitVec 32

end Sys2Proof.Config
end

