-- ==== Sys2Proof/Machine/State.lean ====
section
/-! DEFINITION. The state of the BCT-8 as plain data, every piece of it that the spec names, and State.reset, the state at the end of a power-on reset. -/

namespace Sys2Proof.Machine

/-! ### The Trunk Framer (01_the_trunk_link.md) -/

/-- The receive state of the Trunk Framer (section 1.2). -/
inductive Align where
  | search | confirm | aligned | operational | quiet
  deriving DecidableEq, Repr

/-- The state of the Trunk Framer (R1 to R20). -/
structure Framer where
  /-- receive state -/
  rx : Align
  /-- good-frame count -/
  goodCount : Nat
  /-- consecutive bad-frame count -/
  badCount : Nat
  /-- expected frame number -/
  expected : BitVec 4
  /-- far-end alarm flag (R12) -/
  farAlarm : Bool
  /-- upstream stream state: RUNNING or STOPPED (R14) -/
  running : Bool
  /-- bits taken from the receive pair, counted modulo the 256 of a frame time (R3) -/
  bitPos : Fin 256
  /-- aligned position: the count at which the frames taken start (R3, R4) -/
  alignPos : Fin 256
  /-- the last bits received since the hunt began, at most eight (R4) -/
  recent : List Bool
  /-- open candidate frames, oldest first, each with its bits received so far (R4) -/
  candidates : List (List Bool)
  /-- bits received of the frame at the aligned position (R3, R5) -/
  rxBits : List Bool
  /-- transmit frame number: the number the next frame begun will carry (R1; log 7) -/
  txNumber : BitVec 4
  /-- the number of the frame being sent (R90) -/
  sentNumber : BitVec 4
  /-- octets of the frame in progress already sent -/
  txOctets : List Octet
  /-- the frame most recently sent whole (log 8) -/
  lastFrame : List Octet
  /-- bad-frame counter (R18) -/
  badFrames : Half
  /-- alignment-loss counter (R18) -/
  alignLosses : Half
  /-- cycle-slip counter (R18) -/
  slips : Half
  /-- RESTART-frames counter (R18) -/
  restarts : Half
  deriving DecidableEq, Repr

/-! ### A Line Unit (02, 04 and 07) -/

/-- Line rates (R21, R189). -/
inductive Rate where
  | r1200 | r2400 | r4800 | r9600 | r19200 | r38400 | r57600 | r115200
  deriving DecidableEq, Repr

/-- Data bits of a character (R21). -/
inductive DataBits where
  | seven | eight
  deriving DecidableEq, Repr

/-- Parity of a character (R21). -/
inductive Parity where
  | none | even | odd
  deriving DecidableEq, Repr

/-- Stop bits of a character (R21). -/
inductive StopBits where
  | one | two
  deriving DecidableEq, Repr

/-- A line's parameter record (R21). -/
structure LineParams where
  rate : Rate
  dataBits : DataBits
  parity : Parity
  stopBits : StopBits
  /-- address-mark mode -/
  addressMark : Bool
  /-- gap, in character times -/
  gap : Nat
  /-- maximum record length -/
  maxLength : Nat
  /-- upstream quota, in blocks -/
  quota : Nat
  /-- reply timeout, in units of 10 ms -/
  replyTimeout : Nat
  /-- echo suppression -/
  echo : Bool
  /-- wake enable -/
  wake : Bool
  deriving DecidableEq, Repr

/-- Receiver states (section 2.2). -/
inductive RxState where
  | off | hunt | start | receiving | breakHold | watch | settle
  deriving DecidableEq, Repr

/-- An entry of the character stage (section 2.3). -/
structure StageEntry where
  value : Octet
  mark : Bool
  parity : Bool
  framing : Bool
  brk : Bool
  /-- OVERRUN-BEFORE -/
  overrunBefore : Bool
  deriving DecidableEq, Repr

/-- An item of a line's stage order: an entry of the stage, or a marker (R60). -/
inductive StageItem where
  | char (e : StageEntry)
  /-- transmit selection for a local address (R37) -/
  | txSelect (addr : Octet)
  /-- transmit boundary of a plain line (R60) -/
  | txBoundary
  deriving DecidableEq, Repr

/-- Kinds of upstream records (R53). -/
inductive UpKind where
  | data | response | noReply
  deriving DecidableEq, Repr

/-- Flags of an upstream record (R54). -/
structure UpFlags where
  parity : Bool
  framing : Bool
  overrun : Bool
  brk : Bool
  truncated : Bool
  continued : Bool
  late : Bool
  deriving DecidableEq, Repr

/-- An upstream record: what its descriptor carries (R53, R76, R77). -/
structure UpRecord where
  /-- descriptor held -/
  desc : Nat
  /-- blocks held, in payload order -/
  chain : List Nat
  kind : UpKind
  length : Nat
  flags : UpFlags
  station : Option Octet
  channel : Option Octet
  firstError : Option Nat
  deriving DecidableEq, Repr

/-- A continuation marking (R59). -/
structure Continuation where
  kind : UpKind
  station : Option Octet
  channel : Option Octet
  deriving DecidableEq, Repr

/-- The station and channel of a wait: the response marking (R66) and the last-expired context (R122). -/
structure WaitName where
  station : Octet
  channel : Octet
  deriving DecidableEq, Repr

/-- Who made a downstream record (R108). -/
inductive Origin where
  | headEnd | poll
  deriving DecidableEq, Repr

/-- A downstream record: what its descriptor carries (R108, R76). -/
structure DownRecord where
  desc : Nat
  chain : List Nat
  origin : Origin
  /-- the record begins with a break -/
  brk : Bool
  /-- reply flag -/
  reply : Bool
  station : Octet
  line : LineNo
  localAddr : Octet
  /-- 0 to 7, or 255 for a head-end record -/
  channel : Octet
  length : Nat
  deriving DecidableEq, Repr

/-- A reply wait (R120). -/
structure ReplyWait where
  station : Octet
  channel : Octet
  /-- begun marker -/
  begun : Bool
  /-- remaining ms, or stopped -/
  timer : Option Nat
  deriving DecidableEq, Repr

/-- How the transmitter is switched. Its five state names follow from this and its work (R124; Line.transmitter). -/
inductive TxMode where
  | off | on | draining
  deriving DecidableEq, Repr

/-- The states of a Line Transmitter (section 7.4). -/
inductive TxState where
  | off | idle | sending | awaitReply | draining
  deriving DecidableEq, Repr

/-- The position of an upstream stream (section 6.2). -/
inductive StreamPos where
  | idle
  | sending (offset : Nat)
  | restartPending
  deriving DecidableEq, Repr

/-- The eleven per-line counters (R162). -/
structure LineCounters where
  characters : Half
  parity : Half
  framing : Half
  breaks : Half
  overruns : Half
  ignored : Half
  recordsClosed : Half
  recordsTruncated : Half
  recordsSent : Half
  noReplies : Half
  late : Half
  deriving DecidableEq, Repr

/-- A Line Unit with its upstream stream's position. -/
structure Line where
  params : LineParams
  /-- receiver state -/
  rx : RxState
  /-- bit times of continuous high that BREAK_HOLD or SETTLE still waits for (R27, R38) -/
  highWait : Option Nat
  /-- character stage, with the markers in their places (R28, R60) -/
  stage : List StageItem
  /-- overrun-pending flag (R29) -/
  overrunPending : Bool
  /-- address selection: UNSELECTED is none (section 2.5) -/
  selection : Option Octet
  /-- open record -/
  openRec : Option UpRecord
  /-- gap timer: stopped, or its load in character times (R58) -/
  gapTimer : Option Nat
  /-- continuation marking (R59) -/
  cont : Option Continuation
  /-- response marking (R66) -/
  respMark : Option WaitName
  /-- STARVED flag: membership of the starved set (R72, R85) -/
  starved : Bool
  /-- loss-while-starved marking (R72) -/
  lossWhileStarved : Bool
  /-- upstream queue, oldest first (R70) -/
  upQueue : List UpRecord
  /-- the transmitter's switch -/
  txMode : TxMode
  /-- a record is being sent: LnDE asserted (R118) -/
  sending : Bool
  /-- levels of LnTX for the record being sent, one for each bit time (R118) -/
  wave : List Bool
  /-- the one-bit rest on LnTX is not over (R117) -/
  resting : Bool
  /-- downstream queue, oldest first (R116) -/
  downQueue : List DownRecord
  /-- reply wait (R120) -/
  wait : Option ReplyWait
  /-- last-expired context (R122) -/
  lastExpired : Option WaitName
  /-- Quiet hold (R128) -/
  quietHold : Bool
  /-- position of the line's upstream stream (section 6.2) -/
  pos : StreamPos
  counters : LineCounters
  deriving DecidableEq, Repr

/-! ### The Station Table, the Shared Buffer and the Slot Map (03, 05, 06) -/

/-- An entry of the Station Table (R41). -/
structure Station where
  valid : Bool
  line : LineNo
  localAddr : Octet
  /-- downstream permitted -/
  down : Bool
  /-- upstream capture -/
  capture : Bool
  /-- reply-required default -/
  replyDefault : Bool
  deriving DecidableEq, Repr

/-- The Buffer Manager and the Shared Buffer (R76, R84). -/
structure Buffer where
  /-- the octets of the Shared Buffer, by 16 times the block's number plus the position in the block -/
  cells : List Host.Cell
  /-- free block list, taken at the head and returned at the tail -/
  freeBlocks : List Nat
  /-- free descriptor list -/
  freeDescs : List Nat
  /-- wake pointer -/
  wakePtr : LineNo
  deriving DecidableEq, Repr

/-- An entry of the Slot Map (R90). -/
structure SlotEntry where
  /-- owner: UNASSIGNED is none -/
  owner : Option LineNo
  /-- frame set: bit f is frame f -/
  frames : Half
  deriving DecidableEq, Repr

/-- The Slot Map (R90). -/
structure SlotMap where
  banks : Vector (Vector SlotEntry 28) 2
  /-- active-bank index -/
  active : Fin 2
  swapPending : Bool
  deriving DecidableEq, Repr

/-- The hold of a LINES-scope reset on the line streams (R104, R105). -/
inductive LineHold where
  | none
  /-- in force; its releasing response has not ended -/
  | inForce
  /-- its releasing response has ended: it ends at the start of the next frame -/
  | ending
  deriving DecidableEq, Repr

/-- What the Upstream Serializer keeps beside the line streams' positions. -/
structure Serializer where
  /-- position of the management stream (R100) -/
  mgmtPos : StreamPos
  lineHold : LineHold
  deriving DecidableEq, Repr

/-! ### The Downstream Parser (07) -/

/-- Kinds of downstream records (R109, R184). -/
inductive DownKind where
  | send | sendReply | sendBreak
  deriving DecidableEq, Repr

/-- The states of the Downstream Parser (section 7.2). -/
inductive DownParse where
  | waitRestart
  | between
  /-- HEADER: kind noted, and the length when it has been received -/
  | header (kind : DownKind) (length : Option Nat)
  /-- PAYLOAD: the accepted record and how many payload octets are stored -/
  | payload (r : DownRecord) (stored : Nat)
  /-- SKIP: the octets to consume; none before the skipped record's length octet (R109) -/
  | skip (left : Option Nat)
  deriving DecidableEq, Repr

/-- Reasons of a downstream discard (R115). -/
inductive Discard where
  | badKind | badLength | unknownStation | downDisabled | lineOff | queueFull | noBuffer | interrupted
  deriving DecidableEq, Repr

/-- The downstream discard counters (R115). -/
structure DiscardCounters where
  badKind : Half
  badLength : Half
  unknownStation : Half
  downDisabled : Half
  lineOff : Half
  queueFull : Half
  noBuffer : Half
  interrupted : Half
  deriving DecidableEq, Repr

/-- The Downstream Parser. -/
structure DownParser where
  parse : DownParse
  discards : DiscardCounters
  deriving DecidableEq, Repr

/-! ### The Poll Engine (08) -/

/-- A Script Store entry; its length is the payload's (R130). -/
structure Script where
  station : Octet
  reply : Bool
  payload : List Octet
  deriving DecidableEq, Repr

/-- Step of a channel (R133). -/
inductive PollStep where
  | advance | hold
  deriving DecidableEq, Repr

/-- Mode of a channel (R133). -/
inductive PollMode where
  | single | run
  deriving DecidableEq, Repr

/-- Trigger kind of a channel (R133). -/
inductive Trigger where
  | timer | manual
  deriving DecidableEq, Repr

/-- Last outcome of a channel (R148). -/
inductive PollOutcome where
  | none | answered | noReply | sent | abandoned
  deriving DecidableEq, Repr

/-- The settings of a channel that Set Channel writes (R133, R134). -/
structure ChannelSettings where
  target : LineNo
  baseIndex : EntryNo
  baseCount : Nat
  step : PollStep
  mode : PollMode
  reload : Bool
  trigger : Trigger
  /-- interval, in units of 10 ms -/
  interval : Nat
  deriving DecidableEq, Repr

/-- A poll channel (R133). -/
structure Channel where
  settings : ChannelSettings
  /-- ARMED, or MASKED -/
  armed : Bool
  pending : Bool
  oneShot : Bool
  /-- current index -/
  current : EntryNo
  /-- current count -/
  count : Nat
  /-- interval counter: stopped, or its remaining time in ms (R136; log 17) -/
  counter : Option Nat
  outstanding : Bool
  runInProgress : Bool
  outcome : PollOutcome
  /-- missed-triggers counter -/
  missed : Half
  deriving DecidableEq, Repr

/-- Modes of the Poll Arbiter (R142). -/
inductive ArbMode where
  | fixed | rotating
  deriving DecidableEq, Repr

/-- The Poll Engine. -/
structure Poll where
  script : Vector Script 64
  channels : Vector Channel 8
  mode : ArbMode
  /-- rotation pointer -/
  pointer : ChannelNo
  deriving DecidableEq, Repr

/-! ### The Management Unit (09) -/

/-- The command parse states with the command under construction (R151). -/
inductive CmdParse where
  | waitRestart
  | between
  /-- LENGTH: code noted -/
  | length (code : Octet)
  /-- TAG: code and length noted -/
  | tag (code : Octet) (length : Nat)
  /-- PARAMETERS: code, length, tag and the octets received so far -/
  | parameters (code : Octet) (length : Nat) (tag : Octet) (received : List Octet)
  /-- OVERLENGTH: code, length, tag and the octets still to consume (R152) -/
  | overlength (code : Octet) (length : Nat) (tag : Octet) (left : Nat)
  deriving DecidableEq, Repr

/-- A command record (section 9.1). -/
structure Command where
  code : Octet
  /-- the value of its length octet (R151, R152) -/
  length : Nat
  tag : Octet
  params : List Octet
  /-- header-only record marked overlength (R152) -/
  overlength : Bool
  deriving DecidableEq, Repr

/-- Statuses of responses (R157). -/
inductive Status where
  | ok | unknown | length | range | busy | conflict
  deriving DecidableEq, Repr

/-- What the end of a response brings about (R101). -/
inductive Governs where
  | nothing | deviceReset | quietEntry | lineRelease
  deriving DecidableEq, Repr

/-- A response record (R158). -/
structure Response where
  tag : Octet
  code : Octet
  status : Status
  results : List Octet
  governs : Governs
  deriving DecidableEq, Repr

/-- The execution state (R156). -/
inductive ExecState where
  | ready | awaitingReset | awaitingQuiet
  deriving DecidableEq, Repr

/-- Causes of full resets (R172). -/
inductive Cause where
  | power | pin | command | supervision
  deriving DecidableEq, Repr

/-- Wake sources (R179). -/
inductive WakeSource where
  | trunk
  | line (n : LineNo)
  deriving DecidableEq, Repr

/-- The conditions of the Event Summary (R159). -/
inductive Condition where
  | restarted | wake | trunk
  | lineLoss (n : LineNo)
  | pollTerminal (c : ChannelNo)
  | pollFault (c : ChannelNo)
  | downDiscard | mgmtDiscard | supervision
  deriving DecidableEq, Repr

/-- The Event Summary: for each of the 30 conditions its count, or none when it is absent (R159). -/
structure Events where
  counts : Vector (Option Octet) 30
  /-- value held by RESTARTED -/
  cause : Cause
  /-- value held by WAKE -/
  source : Option WakeSource
  deriving DecidableEq, Repr

/-- The identification values (R164). -/
structure Ident where
  partCode : Half
  revision : Octet
  unit : BitVec 32
  deriving DecidableEq, Repr

/-- The Management Unit. -/
structure Mgmt where
  parse : CmdParse
  /-- Command Input Buffer, oldest first -/
  cib : List Command
  exec : ExecState
  /-- Response Queue, oldest first -/
  responses : List Response
  events : Events
  /-- commands-accepted counter -/
  accepted : Half
  /-- commands-discarded counter -/
  discarded : Half
  ident : Ident
  deriving DecidableEq, Repr

/-! ### Quiet Control and the Supervision Timer (10) -/

/-- Quiet Control. -/
structure Quiet where
  /-- QUIET flag -/
  flag : Bool
  wakeOnTrunk : Bool
  lastCause : Cause
  lastWake : Option WakeSource
  deriving DecidableEq, Repr

/-- Actions of the Supervision Timer (R175). -/
inductive SupAction where
  | hold | reset
  deriving DecidableEq, Repr

/-- The Supervision Timer. -/
structure Supervision where
  /-- interval in seconds; 0 is off -/
  interval : Octet
  action : SupAction
  /-- stopped, or the remaining time in ms -/
  timer : Option Nat
  deriving DecidableEq, Repr

/-- What holds the part in reset (R169). -/
inductive Held where
  | no
  /-- a pin reset during which the supply monitor has not held the part -/
  | pin
  /-- a reset during which the supply monitor held the part -/
  | power
  deriving DecidableEq, Repr

/-- The BCT-8. -/
structure State where
  held : Held
  framer : Framer
  lines : Vector Line 8
  stations : Vector Station 256
  buffer : Buffer
  slots : SlotMap
  serializer : Serializer
  parser : DownParser
  poll : Poll
  mgmt : Mgmt
  quiet : Quiet
  sup : Supervision
  /-- the commands waiting, first in first out -/
  pending : List Instr
  deriving DecidableEq, Repr

/-- Why a step faults: the spec gives the part nothing that stops it (INVENTORY.md, Faults), so there is no fault. -/
inductive Fault
  deriving DecidableEq, Repr

/-- Why a step is refused. -/
inductive Refusal where
  /-- Raised by exec's arm of a command that has no meaning yet, with the row's mnemonic; no arm is refused now.
  Safe: the model stops where the part goes on. -/
  | notModelled (mnemonic : String)
  deriving DecidableEq, Repr

/-! ### Reset values -/

/-- Reset values of the framer (R20; log 25 for those the spec does not give). -/
def Framer.reset : Framer where
  rx := .search
  goodCount := 0
  badCount := 0
  expected := 0
  farAlarm := true
  running := false
  bitPos := 0
  alignPos := 0
  recent := []
  candidates := []
  rxBits := []
  txNumber := 0
  sentNumber := 0
  txOctets := []
  lastFrame := []
  badFrames := 0
  alignLosses := 0
  slips := 0
  restarts := 0

/-- The defaults of the parameter record (R21). -/
def LineParams.default : LineParams where
  rate := .r9600
  dataBits := .eight
  parity := .none
  stopBits := .one
  addressMark := false
  gap := 3
  maxLength := 64
  quota := 32
  replyTimeout := 20
  echo := false
  wake := false

/-- All per-line counters at 0. -/
def LineCounters.zero : LineCounters where
  characters := 0
  parity := 0
  framing := 0
  breaks := 0
  overruns := 0
  ignored := 0
  recordsClosed := 0
  recordsTruncated := 0
  recordsSent := 0
  noReplies := 0
  late := 0

/-- Reset values of a Line Unit (R40, R75, R107, R129; log 15, log 25). -/
def Line.reset : Line where
  params := .default
  rx := .off
  highWait := none
  stage := []
  overrunPending := false
  selection := none
  openRec := none
  gapTimer := none
  cont := none
  respMark := none
  starved := false
  lossWhileStarved := false
  upQueue := []
  txMode := .off
  sending := false
  wave := []
  resting := false
  downQueue := []
  wait := none
  lastExpired := none
  quietHold := false
  pos := .idle
  counters := .zero

/-- Reset values of a station entry (R50). -/
def Station.reset : Station where
  valid := false
  line := 0
  localAddr := 0
  down := false
  capture := false
  replyDefault := false

/-- Reset values of the Buffer Manager (R89; the order of the lists: log 9). -/
def Buffer.reset : Buffer where
  cells := []
  freeBlocks := List.range Config.blocks
  freeDescs := List.range Config.descriptors
  wakePtr := 7

/-- An UNASSIGNED slot entry with an empty frame set (R107). -/
def SlotEntry.reset : SlotEntry where
  owner := none
  frames := 0

/-- Reset values of the Slot Map (R107). -/
def SlotMap.reset : SlotMap where
  banks := Vector.replicate 2 (Vector.replicate 28 .reset)
  active := 0
  swapPending := false

/-- Reset values of the Upstream Serializer (R107). -/
def Serializer.reset : Serializer where
  mgmtPos := .idle
  lineHold := .none

/-- All downstream discard counters at 0. -/
def DiscardCounters.zero : DiscardCounters where
  badKind := 0
  badLength := 0
  unknownStation := 0
  downDisabled := 0
  lineOff := 0
  queueFull := 0
  noBuffer := 0
  interrupted := 0

/-- Reset values of the Downstream Parser (R129). -/
def DownParser.reset : DownParser where
  parse := .waitRestart
  discards := .zero

/-- Reset values of a script entry (R150). -/
def Script.reset : Script where
  station := 0
  reply := false
  payload := [0]

/-- Reset values of a channel's settings (R150). -/
def ChannelSettings.reset : ChannelSettings where
  target := 0
  baseIndex := 0
  baseCount := 1
  step := .advance
  mode := .single
  reload := false
  trigger := .timer
  interval := 1

/-- Reset values of a channel (R150). -/
def Channel.reset : Channel where
  settings := .reset
  armed := false
  pending := false
  oneShot := false
  current := 0
  count := 0
  counter := none
  outstanding := false
  runInProgress := false
  outcome := .none
  missed := 0

/-- Reset values of the Poll Engine (R150). -/
def Poll.reset : Poll where
  script := Vector.replicate 64 .reset
  channels := Vector.replicate 8 .reset
  mode := .fixed
  pointer := 7

/-- The Event Summary after a full reset: RESTARTED alone, count 1, with the cause (R168, R172). -/
def Events.reset (c : Cause) : Events where
  counts := (Vector.replicate 30 none).set 0 (some 1)
  cause := c
  source := none

/-- The identification values (R164, R188). -/
def Ident.fixed : Ident where
  partCode := Config.partCode
  revision := Config.revision
  unit := Config.unitNumber

/-- Reset values of the Management Unit after a full reset with a cause (R168). -/
def Mgmt.reset (c : Cause) : Mgmt where
  parse := .waitRestart
  cib := []
  exec := .ready
  responses := []
  events := .reset c
  accepted := 0
  discarded := 0
  ident := .fixed

/-- Reset values of Quiet Control after a full reset with a cause (R181). -/
def Quiet.reset (c : Cause) : Quiet where
  flag := false
  wakeOnTrunk := false
  lastCause := c
  lastWake := none

/-- Reset values of the Supervision Timer (R181). -/
def Supervision.reset : Supervision where
  interval := 0
  action := .hold
  timer := none

/-- The machine at the end of a power-on reset, before its first frame begins (R169; log 22). -/
def State.reset : State where
  held := .no
  framer := .reset
  lines := Vector.replicate 8 .reset
  stations := Vector.replicate 256 .reset
  buffer := .reset
  slots := .reset
  serializer := .reset
  parser := .reset
  poll := .reset
  mgmt := .reset .power
  quiet := .reset .power
  sup := .reset
  pending := []

end Sys2Proof.Machine
end

