-- ==== Sys2Proof/Machine/Flags.lean ====
section
/-! DEFINITION. Saturating counts, the Event Summary's conditions, the CRC-8, the frame header and the octet encodings of Trunk Formats (11_trunk_formats.md). -/

namespace Sys2Proof.Machine

/-- A 16-bit counter rises by one and stops at 65535 (00_scope.md, Counters and counts). -/
def satInc (c : Half) : Half := if c = 0xFFFF then c else c + 1

/-- Lines 0 to 7, in order. -/
def allLines : List LineNo := [0, 1, 2, 3, 4, 5, 6, 7]

/-- Channels 0 to 7, in order. -/
def allChannels : List ChannelNo := [0, 1, 2, 3, 4, 5, 6, 7]

/-! ### Encodings -/

/-- no and yes, off and on, clear and set (R182). -/
def boolOctet (b : Bool) : Octet := if b then 0x01 else 0x00

/-- A number of one octet. -/
def natOctet (n : Nat) : Octet := BitVec.ofNat 8 n

/-- A quantity of two octets, most significant first (R182). -/
def halfOctets (h : Half) : List Octet := [(h >>> 8).setWidth 8, h.setWidth 8]

/-- A quantity of four octets, most significant first (R182). -/
def wordOctets (w : BitVec 32) : List Octet :=
  [(w >>> 24).setWidth 8, (w >>> 16).setWidth 8, (w >>> 8).setWidth 8, w.setWidth 8]

/-- Rates (R189). -/
def Rate.octet : Rate → Octet
  | .r1200 => 0x00
  | .r2400 => 0x01
  | .r4800 => 0x02
  | .r9600 => 0x03
  | .r19200 => 0x04
  | .r38400 => 0x05
  | .r57600 => 0x06
  | .r115200 => 0x07

/-- Data bits (R189). -/
def DataBits.octet : DataBits → Octet
  | .seven => 0x07
  | .eight => 0x08

/-- Parity (R189). -/
def Parity.octet : Parity → Octet
  | .none => 0x00
  | .even => 0x01
  | .odd => 0x02

/-- Stop bits (R189). -/
def StopBits.octet : StopBits → Octet
  | .one => 0x01
  | .two => 0x02

/-- Receiver, as Read Line gives it: every state other than OFF reads as ON (R23, R189). -/
def RxState.octet : RxState → Octet
  | .off => 0x00
  | .hunt | .start | .receiving | .breakHold | .watch | .settle => 0x01

/-- Transmitter states (R189). -/
def TxState.octet : TxState → Octet
  | .off => 0x00
  | .idle => 0x01
  | .sending => 0x02
  | .awaitReply => 0x03
  | .draining => 0x04

/-- Kinds of upstream records (R184). -/
def UpKind.octet : UpKind → Octet
  | .data => 0x21
  | .response => 0x22
  | .noReply => 0x23

/-- Kinds of downstream records (R184); any other nonzero octet is an unknown kind (R109). -/
def DownKind.ofOctet (o : Octet) : Option DownKind :=
  if o = 0x41 then some .send
  else if o = 0x42 then some .sendReply
  else if o = 0x43 then some .sendBreak
  else none

/-- Slot owner: FFh is UNASSIGNED (R191). -/
def ownerOctet : Option LineNo → Octet
  | some n => natOctet n.val
  | none => 0xFF

/-- Steps (R192). -/
def PollStep.octet : PollStep → Octet
  | .advance => 0x00
  | .hold => 0x01

/-- Channel modes (R192). -/
def PollMode.octet : PollMode → Octet
  | .single => 0x00
  | .run => 0x01

/-- Trigger kinds (R192). -/
def Trigger.octet : Trigger → Octet
  | .timer => 0x00
  | .manual => 0x01

/-- Last outcomes (R192). -/
def PollOutcome.octet : PollOutcome → Octet
  | .none => 0x00
  | .answered => 0x01
  | .noReply => 0x02
  | .sent => 0x03
  | .abandoned => 0x04

/-- Arbiter modes (R192). -/
def ArbMode.octet : ArbMode → Octet
  | .fixed => 0x00
  | .rotating => 0x01

/-- Statuses (R185). -/
def Status.octet : Status → Octet
  | .ok => 0x00
  | .unknown => 0x01
  | .length => 0x02
  | .range => 0x03
  | .busy => 0x04
  | .conflict => 0x05

/-- Reset causes (R188). -/
def Cause.octet : Cause → Octet
  | .power => 0x01
  | .pin => 0x02
  | .command => 0x03
  | .supervision => 0x04

/-- Wake sources; FFh is none (R188). -/
def wakeOctet : Option WakeSource → Octet
  | none => 0xFF
  | some .trunk => 0x10
  | some (.line n) => natOctet n.val

/-- Supervision actions (R188). -/
def SupAction.octet : SupAction → Octet
  | .hold => 0x00
  | .reset => 0x01

/-- The flags octet of an upstream record: bits 0 to 6 are the flags, bit 7 says a station is present (R184). -/
def UpRecord.flagsOctet (r : UpRecord) : Octet :=
  BitVec.ofBool r.station.isSome ++ BitVec.ofBool r.flags.late ++ BitVec.ofBool r.flags.continued ++
    BitVec.ofBool r.flags.truncated ++ BitVec.ofBool r.flags.brk ++ BitVec.ofBool r.flags.overrun ++
    BitVec.ofBool r.flags.framing ++ BitVec.ofBool r.flags.parity

/-- The header octets of an upstream record, 3 to 6 of them (R95, R184). -/
def UpRecord.header (r : UpRecord) : List Octet :=
  [r.kind.octet, natOctet r.length, r.flagsOctet] ++ r.station.toList ++ r.channel.toList ++
    (r.firstError.map natOctet).toList

/-- The octets of a response: five header octets and the results (R100, R185). -/
def Response.octets (r : Response) : List Octet :=
  [0x01, natOctet r.results.length, r.tag, r.code, r.status.octet] ++ r.results

/-! ### The frame -/

/-- One step of the CRC register: polynomial x^8+x^2+x+1 (R183). -/
def crcShift (c : Octet) : Octet := if c.msb then (c <<< 1) ^^^ 0x07 else c <<< 1

/-- The CRC register after one octet, most significant bit first (R183). -/
def crcOctet (c o : Octet) : Octet := Nat.repeat crcShift 8 (c ^^^ o)

/-- The CRC-8 of octets in order: initial value 00h, no reflection, no final inversion (R183). -/
def crc8 (octets : List Octet) : Octet := octets.foldl crcOctet 0x00

/-- The bits of an octet as the trunk carries it, most significant first (R182). -/
def octetBits (o : Octet) : List Bool := (List.finRange 8).map fun k => o.getMsb k

/-- The bits of octets in the order in which the trunk carries them (R182, R183). -/
def trunkBits (octets : List Octet) : List Bool := octets.flatMap octetBits

/-- The octet whose bits arrive in this order (R182). -/
def octetOf (a b c d e f g h : Bool) : Octet :=
  BitVec.ofBool a ++ BitVec.ofBool b ++ BitVec.ofBool c ++ BitVec.ofBool d ++ BitVec.ofBool e ++ BitVec.ofBool f ++
    BitVec.ofBool g ++ BitVec.ofBool h

/-- The whole octets that bits make, in the order received (R182). -/
def octetsOf : List Bool → List Octet
  | a :: b :: c :: d :: e :: f :: g :: h :: rest => octetOf a b c d e f g h :: octetsOf rest
  | _ => []

/-- The header octet of an upstream frame (R2, R183). -/
def headerOctet (attention remoteAlarm : Bool) (bank : Fin 2) (restart : Bool) (number : BitVec 4) : Octet :=
  BitVec.ofBool attention ++ BitVec.ofBool remoteAlarm ++ BitVec.ofBool (bank == 1) ++ BitVec.ofBool restart ++ number

/-- The frame number of a header (R183). -/
def headerNumber (h : Octet) : BitVec 4 := h.setWidth 4

/-- The RESTART indicator of a header (R183). -/
def headerRestart (h : Octet) : Bool := h.getLsbD 4

/-- The REMOTE_ALARM indicator of a header (R183). -/
def headerRemoteAlarm (h : Octet) : Bool := h.getLsbD 6

/-- Octet `k` of a frame. -/
def frameOctet (octets : List Octet) (k : Nat) : Octet := octets.getD k Config.fill

/-- A frame is good when its first octet is D3h and its check octet is the CRC-8 of its octets 1 to 30 (R3). -/
def goodFrame (octets : List Octet) : Bool :=
  octets.length == 32 && frameOctet octets 0 == Config.sync && frameOctet octets 31 == crc8 ((octets.drop 1).take 30)

/-- The data-slot octets of a frame, slot 0 first (R183). -/
def frameSlots (octets : List Octet) : List Octet := (octets.drop 2).take 28

/-- The management-slot octet of a frame (R183). -/
def frameManagement (octets : List Octet) : Octet := frameOctet octets 30

/-! ### The Event Summary -/

/-- The place of a condition among the 30 (R159, in the order of its table). -/
def Condition.index : Condition → Fin 30
  | .restarted => 0
  | .wake => 1
  | .trunk => 2
  | .lineLoss n => ⟨3 + n.val, by omega⟩
  | .pollTerminal c => ⟨11 + c.val, by omega⟩
  | .pollFault c => ⟨19 + c.val, by omega⟩
  | .downDiscard => 27
  | .mgmtDiscard => 28
  | .supervision => 29

/-- The conditions in the order of the table of R159 (R160). -/
def Condition.all : List Condition :=
  [.restarted, .wake, .trunk] ++ allLines.map .lineLoss ++ allChannels.map .pollTerminal ++
    allChannels.map .pollFault ++ [.downDiscard, .mgmtDiscard, .supervision]

/-- Condition codes (R188). -/
def Condition.octet : Condition → Octet
  | .restarted => 0x01
  | .wake => 0x02
  | .trunk => 0x03
  | .lineLoss n => natOctet (0x10 + n.val)
  | .pollTerminal c => natOctet (0x20 + c.val)
  | .pollFault c => natOctet (0x30 + c.val)
  | .downDiscard => 0x40
  | .mgmtDiscard => 0x41
  | .supervision => 0x42

/-- The count of a condition; none when it is absent (R159). -/
def Events.count (e : Events) (c : Condition) : Option Octet := e.counts[c.index]

/-- The summary with a condition's count replaced. -/
def Events.put (e : Events) (c : Condition) (v : Option Octet) : Events :=
  { e with counts := e.counts.set c.index v }

/-- A count after one more occurrence: absent becomes 1, and a count stops at 255 (R159). -/
def raisedCount : Option Octet → Option Octet
  | none => some 1
  | some c => some (if c = 0xFF then c else c + 1)

/-- Raising a condition (R159). -/
def Events.raise (e : Events) (c : Condition) : Events := e.put c (raisedCount (e.count c))

/-- ATTENTION: at least one condition is present (R2, R159). -/
def Events.attention (e : Events) : Bool := Condition.all.any fun c => (e.count c).isSome

/-- The result octets of a present condition: its code, its count, and the value held by RESTARTED and WAKE (R161). -/
def Events.entry (e : Events) (c : Condition) (count : Octet) : List Octet :=
  match c with
  | .restarted => [c.octet, count, e.cause.octet]
  | .wake => [c.octet, count, wakeOctet e.source]
  | .trunk | .lineLoss _ | .pollTerminal _ | .pollFault _ | .downDiscard | .mgmtDiscard | .supervision =>
    [c.octet, count]

/-- Read Events over the conditions that follow: the result octets so far are filled in order up to 60, each
condition placed becomes absent, and from the first that would not fit on all are left (R160, R161). -/
def Events.drainInto : List Condition → Events → List Octet → Events × List Octet
  | [], e, out => (e, out)
  | c :: cs, e, out =>
    match e.count c with
    | none => Events.drainInto cs e out
    | some k =>
      if (out ++ e.entry c k).length ≤ Config.maxResults then
        Events.drainInto cs (e.put c none) (out ++ e.entry c k)
      else (e, out)

end Sys2Proof.Machine
end

