-- ==== Sys2Proof/Machine/Operands.lean ====
section
/-! DEFINITION. Operand forms: the character format on a line in both directions (R25, R26, R118), and the parameter octets of the management commands (R186 to R192). -/

namespace Sys2Proof.Machine

/-! ### Characters -/

/-- Data bits of the format. -/
def LineParams.dataCount (p : LineParams) : Nat :=
  match p.dataBits with
  | .seven => 7
  | .eight => 8

/-- Stop bits of the format. -/
def LineParams.stopCount (p : LineParams) : Nat :=
  match p.stopBits with
  | .one => 1
  | .two => 2

/-- Whether the format has a parity bit. -/
def LineParams.hasParity (p : LineParams) : Bool :=
  match p.parity with
  | .none => false
  | .even | .odd => true

/-- Bit times of one character: start, data, mark, parity and stop bits (00_scope.md, Character time). -/
def LineParams.charBits (p : LineParams) : Nat :=
  1 + p.dataCount + p.addressMark.toNat + p.hasParity.toNat + p.stopCount

/-- Whether the number of 1s among the low `n` bits of an octet is odd. -/
def oddOnes (n : Nat) (v : Octet) : Bool := (List.range n).foldl (fun odd i => odd ^^ v.getLsbD i) false

/-- The sample at the middle of bit position `k`, 1 to 11 (R25). -/
def sampleAt (samples : BitVec 11) (k : Nat) : Bool := samples.getLsbD (k - 1)

/-- The character that the samples of its bit positions make in a line's format, classified as R25 and R26 state. -/
def classify (p : LineParams) (samples : BitVec 11) : StageEntry :=
  let value : Octet :=
    match p.dataBits with
    | .seven => (samples.setWidth 7).setWidth 8
    | .eight => samples.setWidth 8
  let mark := p.addressMark && sampleAt samples (p.dataCount + 1)
  let parityPos := p.dataCount + 1 + p.addressMark.toNat
  let parityBit := p.hasParity && sampleAt samples parityPos
  let odd := oddOnes p.dataCount value ^^ parityBit
  let stopPos := parityPos + p.hasParity.toNat
  let framing := !sampleAt samples stopPos || (p.stopBits == .two && !sampleAt samples (stopPos + 1))
  if framing && value == 0 && !parityBit && !mark then
    { value := 0, mark := false, parity := false, framing := false, brk := true, overrunBefore := false }
  else
    { value := value
      mark := mark
      parity :=
        match p.parity with
        | .none => false
        | .even => odd
        | .odd => !odd
      framing := framing
      brk := false
      overrunBefore := false }

/-- The levels of LnTX for one character, a bit time each (R118). -/
def charWave (p : LineParams) (v : Octet) (mark : Bool) : List Bool :=
  [false] ++ (List.range p.dataCount).map v.getLsbD ++ (if p.addressMark then [mark] else []) ++
    (match p.parity with
      | .none => []
      | .even => [oddOnes p.dataCount v]
      | .odd => [!oddOnes p.dataCount v]) ++
    List.replicate p.stopCount true

/-- The levels of LnTX for a break: low for 2 character times, then high for one bit time (R118). -/
def breakWave (p : LineParams) : List Bool := List.replicate (2 * p.charBits) false ++ [true]

/-- The levels of LnTX for a record: address character, break, payload (R118). -/
def recordWave (p : LineParams) (addr : Octet) (brk : Bool) (payload : List Octet) : List Bool :=
  (if p.addressMark then charWave p addr true else []) ++ (if brk then breakWave p else []) ++
    payload.flatMap fun v => charWave p v false

/-! ### Parameter octets -/

/-- A yes-or-no field (R182). -/
def boolOf (o : Octet) : Option Bool :=
  if o = 0x00 then some false else if o = 0x01 then some true else none

/-- An octet as a number below `n`. -/
def finOf (n : Nat) (o : Octet) : Option (Fin n) := if h : o.toNat < n then some ⟨o.toNat, h⟩ else none

/-- An octet as a number between two bounds. -/
def natOf (lo hi : Nat) (o : Octet) : Option Nat := if lo ≤ o.toNat ∧ o.toNat ≤ hi then some o.toNat else none

/-- Two octets as one number, most significant first (R186). -/
def halfOf (hi lo : Octet) : Half := hi ++ lo

/-- Rates (R189). -/
def Rate.ofOctet (o : Octet) : Option Rate :=
  [Rate.r1200, .r2400, .r4800, .r9600, .r19200, .r38400, .r57600, .r115200].find? fun r => r.octet == o

/-- Data bits (R189). -/
def DataBits.ofOctet (o : Octet) : Option DataBits := [DataBits.seven, .eight].find? fun d => d.octet == o

/-- Parity (R189). -/
def Parity.ofOctet (o : Octet) : Option Parity := [Parity.none, .even, .odd].find? fun p => p.octet == o

/-- Stop bits (R189). -/
def StopBits.ofOctet (o : Octet) : Option StopBits := [StopBits.one, .two].find? fun b => b.octet == o

/-- A parameter record from the eleven octets of Set Line after the line number; none when a value is out of
range, or address-mark mode is on without 8 data bits and parity NONE (R22, R189). -/
def LineParams.ofOctets (rate data parity stop mark gap maxLen quota timeout echo wake : Octet) : Option LineParams := do
  let rate ← Rate.ofOctet rate
  let data ← DataBits.ofOctet data
  let parity ← Parity.ofOctet parity
  let stop ← StopBits.ofOctet stop
  let mark ← boolOf mark
  let gap ← natOf 2 64 gap
  let maxLen ← natOf 16 255 maxLen
  let quota ← natOf 1 128 quota
  let timeout ← natOf 1 255 timeout
  let echo ← boolOf echo
  let wake ← boolOf wake
  if mark && !(data == .eight && parity == .none) then none
  else
    some
      { rate := rate, dataBits := data, parity := parity, stopBits := stop, addressMark := mark, gap := gap
        maxLength := maxLen, quota := quota, replyTimeout := timeout, echo := echo, wake := wake }

/-- A parameter record as the eleven octets of Set Line after the line number (R189). -/
def LineParams.octets (p : LineParams) : List Octet :=
  [p.rate.octet, p.dataBits.octet, p.parity.octet, p.stopBits.octet, boolOctet p.addressMark, natOctet p.gap,
    natOctet p.maxLength, natOctet p.quota, natOctet p.replyTimeout, boolOctet p.echo, boolOctet p.wake]

/-- A receiver or transmitter action (R189): NONE, ON or OFF. -/
inductive SwitchAction where
  | none | on | off
  deriving DecidableEq, Repr

/-- Line Control actions (R189). -/
def SwitchAction.ofOctet (o : Octet) : Option SwitchAction :=
  if o = 0x00 then some .none else if o = 0x01 then some .on else if o = 0x02 then some .off else Option.none

/-- A station entry from its six octets (R190); none when a field is out of range (R46). -/
def Station.ofOctets (valid line addr down capture reply : Octet) : Option Station := do
  let valid ← boolOf valid
  let line ← finOf 8 line
  let down ← boolOf down
  let capture ← boolOf capture
  let reply ← boolOf reply
  some { valid := valid, line := line, localAddr := addr, down := down, capture := capture, replyDefault := reply }

/-- A station entry as its six octets (R190). -/
def Station.octets (e : Station) : List Octet :=
  [boolOctet e.valid, natOctet e.line.val, e.localAddr, boolOctet e.down, boolOctet e.capture, boolOctet e.replyDefault]

/-- A slot owner: a line, or FFh for UNASSIGNED; none when it is neither (R191). -/
def ownerOf (o : Octet) : Option (Option LineNo) :=
  if o = 0xFF then some none else (finOf 8 o).map some

/-- A channel's settings from the nine octets of Set Channel after the channel number (R192); none when one is
out of range (R134). -/
def ChannelSettings.ofOctets (target base count step mode reload trigger hi lo : Octet) : Option ChannelSettings := do
  let target ← finOf 8 target
  let base ← finOf 64 base
  let count ← natOf 1 64 count
  let step ← boolOf step
  let mode ← boolOf mode
  let reload ← boolOf reload
  let trigger ← boolOf trigger
  let interval := (halfOf hi lo).toNat
  if 1 ≤ interval ∧ interval ≤ 6000 then
    some
      { target := target, baseIndex := base, baseCount := count
        step := if step then .hold else .advance
        mode := if mode then .run else .single
        reload := reload
        trigger := if trigger then .manual else .timer
        interval := interval }
  else none

/-- The interval counter as Read Channel gives it: 0 when stopped, else the units of 10 ms not yet run out, at
least 1 (R133, R135; log 17). -/
def counterUnits : Option Nat → Nat
  | none => 0
  | some ms => max 1 ((ms + 9) / 10)

/-- A channel as the 21 octets of Read Channel (R192). -/
def Channel.octets (c : Channel) : List Octet :=
  [boolOctet c.armed, boolOctet c.pending, boolOctet c.oneShot, natOctet c.settings.target.val,
    natOctet c.settings.baseIndex.val, natOctet c.current.val, natOctet c.settings.baseCount, natOctet c.count,
    c.settings.step.octet, c.settings.mode.octet, boolOctet c.settings.reload, c.settings.trigger.octet] ++
    halfOctets (BitVec.ofNat 16 c.settings.interval) ++ halfOctets (BitVec.ofNat 16 (counterUnits c.counter)) ++
    [boolOctet c.outstanding, boolOctet c.runInProgress, c.outcome.octet] ++ halfOctets c.missed

/-- A script entry as the octets of Read Script (R132, R192). -/
def Script.octets (e : Script) : List Octet :=
  [e.station, boolOctet e.reply, natOctet e.payload.length] ++ e.payload

/-- Poll Control actions (R192). -/
inductive PollAction where
  | arm | mask | pollNow
  deriving DecidableEq, Repr

/-- Poll Control actions (R192). -/
def PollAction.ofOctet (o : Octet) : Option PollAction :=
  if o = 0x00 then some .arm else if o = 0x01 then some .mask else if o = 0x02 then some .pollNow else none

/-- Reset scopes (R188). -/
inductive Scope where
  | device | lines | counters
  deriving DecidableEq, Repr

/-- Reset scopes (R188). -/
def Scope.ofOctet (o : Octet) : Option Scope :=
  if o = 0x01 then some .device else if o = 0x02 then some .lines else if o = 0x03 then some .counters else none

end Sys2Proof.Machine
end

