-- ==== Sys2Proof/Machine/Ops.lean ====
section
/-! DEFINITION. The shared operations: access to lines, channels and stations, the Shared Buffer and its claims and releases, upstream records, taking the stage, beginning to transmit, the wake pass, the upstream streams, the parsers' interruption, the resets, and the execution of a management command. -/

namespace Sys2Proof.Machine

/-! ### Access -/

/-- Line `n`. -/
def State.line (s : State) (n : LineNo) : Line := s.lines[n]

/-- The state with line `n` changed by `f`. -/
def State.modLine (s : State) (n : LineNo) (f : Line → Line) : State :=
  { s with lines := s.lines.set n (f (s.line n)) }

/-- The state with every line changed by `f`. -/
def State.mapLines (s : State) (f : Line → Line) : State := { s with lines := s.lines.map f }

/-- Channel `c`. -/
def State.chan (s : State) (c : ChannelNo) : Channel := s.poll.channels[c]

/-- The state with channel `c` changed by `f`. -/
def State.modChan (s : State) (c : ChannelNo) (f : Channel → Channel) : State :=
  { s with poll := { s.poll with channels := s.poll.channels.set c (f (s.chan c)) } }

/-- The state with every channel changed by `f`. -/
def State.mapChans (s : State) (f : Channel → Channel) : State :=
  { s with poll := { s.poll with channels := s.poll.channels.map f } }

/-- The entry of a station number. -/
def State.station (s : State) (k : Octet) : Station := s.stations[k.toNat]'k.isLt

/-- The state with a station's entry replaced. -/
def State.setStation (s : State) (k : Octet) (e : Station) : State :=
  { s with stations := s.stations.set k.toNat e k.isLt }

/-- Raising a condition in the Event Summary (R159). -/
def State.raise (s : State) (c : Condition) : State :=
  { s with mgmt := { s.mgmt with events := s.mgmt.events.raise c } }

/-- A line with its counters changed. -/
def Line.count (l : Line) (f : LineCounters → LineCounters) : Line := { l with counters := f l.counters }

/-- The state of the transmitter by its five names: what its switch and its work imply (section 7.4, R124). -/
def Line.transmitter (l : Line) : TxState :=
  match l.txMode with
  | .off => .off
  | .draining => .draining
  | .on => if l.sending then .sending else if l.wait.isSome then .awaitReply else .idle

/-- The transmitter is OFF or DRAINING: it accepts no record (R110, R112, R125). -/
def Line.refusesRecords (l : Line) : Bool := !(l.txMode == .on)

/-- Character entries of the stage; markers are not among them (R60). -/
def Line.stageCount (l : Line) : Nat :=
  (l.stage.filter fun i => match i with | .char _ => true | .txSelect _ | .txBoundary => false).length

/-- An item of the stage order is a marker (R60). -/
def StageItem.isMarker : StageItem → Bool
  | .char _ => false
  | .txSelect _ | .txBoundary => true

/-! ### The octets of the Shared Buffer -/

/-- What an address of the Shared Buffer reads as. -/
def Memory.read : List Host.Cell → Nat → Octet
  | [], _ => Config.unwritten
  | (a, b) :: m, k => if a = k then b else Memory.read m k

/-- The cells after a write, in canonical form. -/
def Memory.write : List Host.Cell → Nat → Octet → List Host.Cell
  | [], k, v => if v = Config.unwritten then [] else [(k, v)]
  | (a, b) :: m, k, v =>
    if k < a then (if v = Config.unwritten then (a, b) :: m else (k, v) :: (a, b) :: m)
    else if k = a then (if v = Config.unwritten then m else (k, v) :: m)
    else (a, b) :: Memory.write m k v

/-- The canonical form: addresses strictly rise, and no cell holds what an unlisted address reads as. -/
def Memory.wf : List Host.Cell → Bool
  | [] => true
  | [(_, b)] => b != Config.unwritten
  | (a, b) :: (a', b') :: m => b != Config.unwritten && decide (a < a') && Memory.wf ((a', b') :: m)

/-- The address of payload octet `k` of a record: position `k` modulo 16 of block `k / 16` of its chain (R77). -/
def payloadAddr (chain : List Nat) (k : Nat) : Nat :=
  Config.blockSize * chain.getD (k / Config.blockSize) 0 + k % Config.blockSize

/-- Payload octet `k` of a record (R77). -/
def Buffer.payloadOctet (b : Buffer) (chain : List Nat) (k : Nat) : Octet := Memory.read b.cells (payloadAddr chain k)

/-- The payload of a record. -/
def Buffer.payload (b : Buffer) (chain : List Nat) (length : Nat) : List Octet :=
  (List.range length).map (b.payloadOctet chain)

/-- Storing payload octet `k` of a record (R77). -/
def Buffer.storeOctet (b : Buffer) (chain : List Nat) (k : Nat) (v : Octet) : Buffer :=
  { b with cells := Memory.write b.cells (payloadAddr chain k) v }

/-- Storing payload octets from offset `k` on. -/
def Buffer.storeAll (b : Buffer) (chain : List Nat) : Nat → List Octet → Buffer
  | _, [] => b
  | k, v :: vs => Buffer.storeAll (b.storeOctet chain k v) chain (k + 1) vs

/-! ### Per-line accounting and claims -/

/-- Blocks held by a line's upstream records (R82). -/
def Line.upBlocks (l : Line) : Nat :=
  (match l.openRec with | none => 0 | some r => r.chain.length) + (l.upQueue.map fun r => r.chain.length).sum

/-- An upstream growth claim would be granted: the line's quota and the block reserve allow a block (R78). -/
def State.growthAllowed (s : State) (n : LineNo) : Bool :=
  decide ((s.line n).upBlocks < (s.line n).params.quota) && decide (Config.blockReserve < s.buffer.freeBlocks.length)

/-- The free counts allow an upstream opening (R86, step 2). -/
def Buffer.openingCounts (b : Buffer) : Bool :=
  decide (Config.blockReserve < b.freeBlocks.length) && decide (Config.descReserve < b.freeDescs.length)

/-- An upstream opening claim would be granted (R78). -/
def State.openingAllowed (s : State) (n : LineNo) : Bool :=
  s.growthAllowed n && decide (Config.descReserve < s.buffer.freeDescs.length)

/-- One block from the head of the free list (R76). -/
def Buffer.takeBlock (b : Buffer) : Option (Nat × Buffer) :=
  match b.freeBlocks with
  | [] => none
  | k :: ks => some (k, { b with freeBlocks := ks })

/-- One descriptor from the head of the free list (R76, R79, R80). -/
def Buffer.takeDesc (b : Buffer) : Option (Nat × Buffer) :=
  match b.freeDescs with
  | [] => none
  | k :: ks => some (k, { b with freeDescs := ks })

/-- One descriptor and one block together, or neither (R80). -/
def Buffer.takeBoth (b : Buffer) : Option (Nat × Nat × Buffer) :=
  match b.freeDescs, b.freeBlocks with
  | d :: ds, k :: ks => some (d, k, { b with freeDescs := ds, freeBlocks := ks })
  | [], _ => none
  | _ :: _, [] => none

/-- A record's descriptor and chain returned to the tails of the free lists (R76, R83). -/
def Buffer.giveBack (b : Buffer) (chain : List Nat) (desc : Nat) : Buffer :=
  { b with freeBlocks := b.freeBlocks ++ chain, freeDescs := b.freeDescs ++ [desc] }

/-! ### The Station Table -/

/-- A forward lookup: the entry when it is valid (R42). -/
def State.forward (s : State) (k : Octet) : Option Station :=
  if (s.station k).valid then some (s.station k) else none

/-- A reverse lookup: the station of the valid entry with this line and local address that has upstream capture (R44). -/
def State.reverse (s : State) (n : LineNo) (addr : Octet) : Option Octet :=
  (s.stations.toList.findIdx? fun e => e.valid && e.line == n && e.localAddr == addr && e.capture).map natOctet

/-- A line whose active reply wait names the station (R45, R49). -/
def Line.waitsFor (l : Line) (k : Octet) : Bool :=
  match l.wait with
  | none => false
  | some w => w.station == k

/-- A station's entry is referenced by a reply wait or an address selection (R45). -/
def State.referenced (s : State) (k : Octet) : Bool :=
  allLines.any fun n => (s.line n).waitsFor k || (s.line n).selection == some k

/-- The valid entry, other than the station's own, that holds a line and local address (R46, R47). -/
def State.conflict (s : State) (k : Octet) (e : Station) : Option Octet :=
  ((s.stations.set k.toNat { e with valid := false } k.isLt).toList.findIdx? fun x =>
    x.valid && x.line == e.line && x.localAddr == e.localAddr).map natOctet

/-! ### Ends of outstanding poll records and of reply waits -/

/-- A channel at the end of its outstanding record: the outcome is set, and an ARMED channel with a run in
progress becomes pending again (R148, R149). -/
def Channel.endRecord (o : PollOutcome) (c : Channel) : Channel :=
  if c.runInProgress && c.armed then
    { c with outstanding := false, outcome := o, pending := true, runInProgress := false }
  else { c with outstanding := false, outcome := o }

/-- The Poll Engine is told that a record's errand has ended; channel 255 is no channel (R121, R122, R148). -/
def State.pollEnd (s : State) (channel : Octet) (o : PollOutcome) : State :=
  if h : channel.toNat < 8 then s.modChan ⟨channel.toNat, h⟩ (Channel.endRecord o) else s

/-- A DRAINING transmitter with no record being sent, no reply wait and an empty queue is OFF (R125). -/
def Line.settleDrain (l : Line) : Line :=
  if l.txMode == .draining && !l.sending && l.wait.isNone && l.downQueue.isEmpty then { l with txMode := .off } else l

/-- The end of a response: the response marking is cleared, the wait is discarded, and the channel is told ANSWERED
(R67, R121, R148). -/
def State.endResponse (s : State) (n : LineNo) : State :=
  match (s.line n).respMark with
  | none => s
  | some w => (s.modLine n fun l => { l with respMark := none, wait := none }.settleDrain).pollEnd w.channel .answered

/-! ### Closing upstream records -/

/-- Why an upstream record closes (R58 to R63). -/
inductive CloseCause where
  /-- a gap, an address character, a transmit selection or boundary, Quiet entry: no closing flag -/
  | plain
  | brk
  | truncated
  | maxLength
  deriving DecidableEq, Repr

/-- A record with the closing flag of a cause (R54). -/
def UpRecord.closedBy (r : UpRecord) (c : CloseCause) : UpRecord :=
  match c with
  | .plain => r
  | .brk => { r with flags := { r.flags with brk := true } }
  | .truncated => { r with flags := { r.flags with truncated := true } }
  | .maxLength => { r with flags := { r.flags with continued := true } }

/-- A line with its open record closed and put into its upstream queue: records-closed rises, a TRUNCATED record
raises records-truncated, a maximum-length close sets the continuation marking and leaves the gap timer running,
any other stops it (R59, R62, R65). -/
def Line.closeOpen (c : CloseCause) (l : Line) : Line :=
  match l.openRec with
  | none => l
  | some r =>
    { l with
      openRec := none
      upQueue := l.upQueue ++ [r.closedBy c]
      gapTimer := if c = .maxLength then l.gapTimer else none
      cont :=
        if c = .maxLength then some { kind := r.kind, station := r.station, channel := r.channel } else l.cont
      counters :=
        { l.counters with
          recordsClosed := satInc l.counters.recordsClosed
          recordsTruncated :=
            if c = .truncated then satInc l.counters.recordsTruncated else l.counters.recordsTruncated } }

/-- Closing a line's open record, if there is one: LINE_LOSS is raised for a TRUNCATED one, and a response ends
unless the close is the maximum-length split (R62, R63, R65, R67). -/
def State.closeRecord (s : State) (n : LineNo) (c : CloseCause) : State :=
  match (s.line n).openRec with
  | none => s
  | some _ =>
    let t := s.modLine n (Line.closeOpen c)
    let t := if c = .truncated then t.raise (.lineLoss n) else t
    if c = .maxLength then t else t.endResponse n

/-- Clearing a continuation marking by any cause other than its continuation: the gap timer stops, and a RESPONSE
marking ends the response (R59, R67). -/
def State.clearCont (s : State) (n : LineNo) : State :=
  match (s.line n).cont with
  | none => s
  | some m =>
    let t := s.modLine n fun l => { l with cont := none, gapTimer := none }
    if m.kind = .response then t.endResponse n else t

/-- The line's traffic turns to another station: the open record closes with no flag and the continuation marking
is cleared (R60). -/
def State.turnAway (s : State) (n : LineNo) : State := (s.closeRecord n .plain).clearCont n

/-! ### Opening and filling upstream records -/

/-- A waiting reply and a record that may begin it: no marker waits in the stage order, and on an address-mark
line the record's station is the awaited one (R66). -/
def Line.replyCandidate (l : Line) (station : Option Octet) (markerWaits : Bool) : Option ReplyWait :=
  match l.wait with
  | none => none
  | some w =>
    if !w.begun && !markerWaits && (!l.params.addressMark || station == some w.station) then some w else none

/-- Whether a DATA record that opens now is LATE (R69). -/
def Line.lateFor (l : Line) (station : Option Octet) : Bool :=
  match l.lastExpired with
  | none => false
  | some w => !l.params.addressMark || station == some w.station

/-- The kind, station and channel of a record that opens now (R56, step 1). -/
def Line.openingKind (l : Line) (station : Option Octet) (markerWaits : Bool) : Continuation :=
  match l.cont with
  | some m => m
  | none =>
    match l.replyCandidate station markerWaits with
    | some w => { kind := .response, station := some w.station, channel := some w.channel }
    | none => { kind := .data, station := station, channel := none }

/-- A line on which a record opens, of length 0, with its descriptor and first block: it takes the continuation
marking or begins the reply or is DATA, is tested for LATE, takes OVERRUN from a loss while starved, and the gap
timer starts (R56, R61, R66, R69, R72). -/
def Line.openNew (station : Option Octet) (markerWaits : Bool) (desc block : Nat) (l : Line) : Line :=
  let k := l.openingKind station markerWaits
  let late := k.kind == .data && l.lateFor k.station
  let begins := if l.cont.isNone then l.replyCandidate station markerWaits else none
  { l with
    openRec :=
      some
        { desc := desc, chain := [block], kind := k.kind, length := 0
          flags :=
            { parity := false, framing := false, overrun := l.lossWhileStarved, brk := false, truncated := false
              continued := false, late := late }
          station := k.station, channel := k.channel, firstError := none }
    cont := none
    lossWhileStarved := false
    gapTimer := some l.params.gap
    respMark := match begins with | some w => some { station := w.station, channel := w.channel } | none => l.respMark
    wait := match begins with | some w => some { w with begun := true, timer := none } | none => l.wait
    counters := if late then { l.counters with late := satInc l.counters.late } else l.counters }

/-- The opening claim and the record it opens; none when the claim is refused (R56, R61, R78). -/
def State.openRecord (s : State) (n : LineNo) (station : Option Octet) (markerWaits : Bool) : Option State :=
  if s.openingAllowed n then
    match s.buffer.takeBoth with
    | none => none
    | some (d, k, b) => some ({ s with buffer := b }.modLine n (Line.openNew station markerWaits d k))
  else none

/-- A record after a character is stored in it: length, flags and first-error offset (R54, R57). -/
def UpRecord.append (e : StageEntry) (r : UpRecord) : UpRecord :=
  { r with
    length := r.length + 1
    flags :=
      { r.flags with
        parity := r.flags.parity || e.parity
        framing := r.flags.framing || e.framing
        overrun := r.flags.overrun || e.overrunBefore }
    firstError :=
      match r.firstError with
      | some k => some k
      | none => if e.parity || e.framing then some r.length else none }

/-- Storing a character in the open record, which closes when it reaches the maximum record length (R57, R59). -/
def State.appendChar (s : State) (n : LineNo) (e : StageEntry) : State :=
  match (s.line n).openRec with
  | none => s
  | some r =>
    let t := { s with buffer := s.buffer.storeOctet r.chain r.length e.value }.modLine n fun l =>
      { l with openRec := some (r.append e) }
    if r.length + 1 = (s.line n).params.maxLength then t.closeRecord n .maxLength else t

/-- The growth claim of a record whose length is a multiple of 16: the block joins the tail of its chain; none when
it is refused (R57, R78). -/
def State.growRecord (s : State) (n : LineNo) (r : UpRecord) : Option State :=
  if s.growthAllowed n then
    match s.buffer.takeBlock with
    | none => none
    | some (k, b) =>
      some ({ s with buffer := b }.modLine n fun l => { l with openRec := some { r with chain := r.chain ++ [k] } })
  else none

/-- Taking a data character: it joins the open record or opens one; none when the claim it needs is refused (R56, R57). -/
def State.takeData (s : State) (n : LineNo) (station : Option Octet) (markerWaits : Bool) (e : StageEntry) :
    Option State :=
  match (s.line n).openRec with
  | some r =>
    if r.length % Config.blockSize = 0 then (s.growRecord n r).map fun t => t.appendChar n e
    else some (s.appendChar n e)
  | none => (s.openRecord n station markerWaits).map fun t => t.appendChar n e

/-- Taking a BREAK entry: the open record closes with BREAK, or a zero-length record opens and closes with it; none
when its opening claim is refused (R61). -/
def State.takeBreak (s : State) (n : LineNo) (station : Option Octet) (markerWaits : Bool) : Option State :=
  match (s.line n).openRec with
  | some _ => some (s.closeRecord n .brk)
  | none => (s.openRecord n station markerWaits).map fun t => t.closeRecord n .brk

/-! ### Taking the stage -/

/-- Setting the address selection of a line. -/
def State.select (s : State) (n : LineNo) (k : Option Octet) : State := s.modLine n fun l => { l with selection := k }

/-- The ignored-characters counter of a line rises by one (R35, R36). -/
def State.ignored (s : State) (n : LineNo) : State :=
  s.modLine n fun l => l.count fun c => { c with ignored := satInc c.ignored }

/-- Taking an address character: it ends the selection and the open record, and is looked up unless it carries
FRAMING (R35, R36, R60). -/
def State.takeAddress (s : State) (n : LineNo) (e : StageEntry) : State :=
  let t := s.turnAway n
  match if e.framing then none else t.reverse n e.value with
  | some k => t.select n (some k)
  | none => (t.select n none).ignored n

/-- Taking a stage entry, under the address selection on an address-mark line; none when it needs storage it cannot
get (R34, R35, R36, R55). -/
def State.takeEntry (s : State) (n : LineNo) (markerWaits : Bool) (e : StageEntry) : Option State :=
  if !(s.line n).params.addressMark then
    if e.brk then s.takeBreak n none markerWaits else s.takeData n none markerWaits e
  else if e.mark then some (s.takeAddress n e)
  else
    match (s.line n).selection with
    | none => some (s.ignored n)
    | some k =>
      if e.brk then (s.takeBreak n (some k) markerWaits).map fun t => t.select n none
      else s.takeData n (some k) markerWaits e

/-- Applying an item of the stage order: an entry is taken; a transmit selection acts as an address character
without FRAMING but counts nothing (R37); a transmit boundary turns the line's traffic away (R60). A transmit
selection looks up the table of the moment it takes effect (R44), and not of the moment its address character began,
which R43 names: the model's choice (log 31). -/
def State.takeItem (s : State) (n : LineNo) (markerWaits : Bool) (i : StageItem) : Option State :=
  match i with
  | .char e => s.takeEntry n markerWaits e
  | .txSelect addr =>
    let t := s.turnAway n
    some (t.select n (t.reverse n addr))
  | .txBoundary => some (s.turnAway n)

/-- A refused claim: an open record closes TRUNCATED, and the line is starved (R63, R85). -/
def State.starve (s : State) (n : LineNo) : State :=
  (s.closeRecord n .truncated).modLine n fun l => { l with starved := true }

/-- Applying the items of the stage order, oldest first, until none is left or a claim is refused; the refused entry
and those behind it stay in the stage (R55, R60, R63). -/
def State.takeItems (n : LineNo) : List StageItem → State → State
  | [], s => s.modLine n fun l => { l with stage := [] }
  | i :: rest, s =>
    match s.takeItem n (rest.any StageItem.isMarker) i with
    | some t => State.takeItems n rest t
    | none => (s.starve n).modLine n fun l => { l with stage := i :: rest }

/-- The Record Assembler takes what the stage holds, unless the line is starved (R55, R72). -/
def State.drain (s : State) (n : LineNo) : State :=
  if (s.line n).starved then s else State.takeItems n (s.line n).stage s

/-! ### Beginning to transmit -/

/-- The conditions of R117, the queue's being non-empty aside. -/
def Line.mayBegin (l : Line) : Bool :=
  !(l.txMode == .off) && !l.sending && l.wait.isNone && !l.quietHold && !l.resting

/-- The marker that the beginning of a record places in the stage order of a line whose receiver is not OFF: a
transmit selection of the record's local address, or a transmit boundary (R37, R60, R117). -/
def Line.beginMarker (l : Line) (r : DownRecord) : List StageItem :=
  if l.rx == .off then [] else if l.params.addressMark then [.txSelect r.localAddr] else [.txBoundary]

/-- A line at the moment its transmitter begins a record: LnDE is asserted, LnTX carries the record, the
last-expired context is cleared and the marker is placed (R117, R118). -/
def Line.begin (r : DownRecord) (payload : List Octet) (l : Line) : Line :=
  { l with
    sending := true
    wave := recordWave l.params r.localAddr r.brk payload
    lastExpired := none
    stage := l.stage ++ l.beginMarker r }

/-- The transmitter begins its head record when the conditions of R117 hold; the marker it places is then taken in
stage order. -/
def State.tryBegin (s : State) (n : LineNo) : State :=
  match (s.line n).downQueue with
  | [] => s
  | r :: _ =>
    if (s.line n).mayBegin then
      (s.modLine n (Line.begin r (s.buffer.payload r.chain r.length))).drain n
    else s

/-- A line's Record Assembler takes what it can, and its transmitter then begins if the end of a reply wait has let
it (R55, R117, R121). -/
def State.serve (s : State) (n : LineNo) : State := (s.drain n).tryBegin n

/-! ### The wake pass and releases -/

/-- The lines in rotation, beginning at the line after one (R86). -/
def rotation (n : LineNo) : List LineNo := [n + 1, n + 2, n + 3, n + 4, n + 5, n + 6, n + 7, n]

/-- A granted retry: the line leaves the starved set, the wake pointer is set to it, and its Record Assembler
resumes at once with the pending opening (R72, R86; log 11). -/
def State.retry (s : State) (n : LineNo) : State :=
  let t := s.modLine n fun l => { l with starved := false }
  { t with buffer := { t.buffer with wakePtr := n } }.serve n

/-- The wake pass over the lines that follow (R86): a line that is not starved is passed over; when the free counts
do not allow an opening the pass ends; a retry refused by the line's quota leaves it starved. -/
def State.wakeLines : List LineNo → State → State
  | [], s => s
  | n :: ns, s =>
    if (s.line n).starved then
      if s.buffer.openingCounts then
        if s.openingAllowed n then State.wakeLines ns (s.retry n) else State.wakeLines ns s
      else s
    else State.wakeLines ns s

/-- The wake pass (R86). -/
def State.wakePass (s : State) : State := State.wakeLines (rotation s.buffer.wakePtr) s

/-- The release of one record, and its wake pass (R83, R86). -/
def State.release (s : State) (chain : List Nat) (desc : Nat) : State :=
  { s with buffer := s.buffer.giveBack chain desc }.wakePass

/-! ### The upstream streams -/

/-- The transmit-enable condition (R12). -/
def Framer.transmitEnable (f : Framer) : Bool := f.rx == .operational && !f.farAlarm

/-- A stream broken off: SENDING becomes IDLE (R102). -/
def StreamPos.breakOff : StreamPos → StreamPos
  | .idle => .idle
  | .sending _ => .idle
  | .restartPending => .restartPending

/-- The upstream streams become STOPPED and every stream is broken off (R13, R102). -/
def State.breakOff (s : State) : State :=
  { s.mapLines fun l => { l with pos := l.pos.breakOff } with
    framer := { s.framer with running := false }
    serializer := { s.serializer with mgmtPos := s.serializer.mgmtPos.breakOff } }

/-- When transmit-enable does not hold, RUNNING streams are stopped (R13). -/
def State.checkStreams (s : State) : State :=
  if s.framer.running && !s.framer.transmitEnable then s.breakOff else s

/-- The octets of an upstream record: its header and its payload (R95). -/
def UpRecord.octetsSent (r : UpRecord) : Nat := r.header.length + r.length

/-- Octet `k` of an upstream record as it is sent (R95, R77). -/
def UpRecord.octet (r : UpRecord) (b : Buffer) (k : Nat) : Octet :=
  if k < r.header.length then r.header.getD k Config.fill else b.payloadOctet r.chain (k - r.header.length)

/-! ### Discards and interruption of the downstream parsers -/

/-- The downstream discard counter of a reason rises by one (R115). -/
def DiscardCounters.bump (c : DiscardCounters) : Discard → DiscardCounters
  | .badKind => { c with badKind := satInc c.badKind }
  | .badLength => { c with badLength := satInc c.badLength }
  | .unknownStation => { c with unknownStation := satInc c.unknownStation }
  | .downDisabled => { c with downDisabled := satInc c.downDisabled }
  | .lineOff => { c with lineOff := satInc c.lineOff }
  | .queueFull => { c with queueFull := satInc c.queueFull }
  | .noBuffer => { c with noBuffer := satInc c.noBuffer }
  | .interrupted => { c with interrupted := satInc c.interrupted }

/-- The Downstream Parser in a parse state. -/
def State.setParse (s : State) (p : DownParse) : State := { s with parser := { s.parser with parse := p } }

/-- A downstream record is discarded: DOWN_DISCARD is raised and the counter of its reason rises; the parser goes on
in `next` (R115). -/
def State.discardDown (s : State) (reason : Discard) (next : DownParse) : State :=
  { s with parser := { parse := next, discards := s.parser.discards.bump reason } }.raise .downDiscard

/-- The Downstream Parser is taken to `next` by the framer: a record under construction is discarded INTERRUPTED and
its storage released; a skip is abandoned (R15, R17, R114). -/
def State.interruptDown (s : State) (next : DownParse) : State :=
  match s.parser.parse with
  | .waitRestart | .between | .skip _ => s.setParse next
  | .header _ _ => s.discardDown .interrupted next
  | .payload r _ => (s.discardDown .interrupted next).release r.chain r.desc

/-- A discarded command: the commands-discarded counter and MGMT_DISCARD (R153, R154). -/
def State.discardCommand (s : State) : State :=
  { s with mgmt := { s.mgmt with discarded := satInc s.mgmt.discarded } }.raise .mgmtDiscard

/-- The command parser in a parse state. -/
def State.setCmdParse (s : State) (p : CmdParse) : State := { s with mgmt := { s.mgmt with parse := p } }

/-- The command parser is taken to `next` by the framer: a partial command is discarded (R15, R17, R154). -/
def State.interruptCommand (s : State) (next : CmdParse) : State :=
  match s.mgmt.parse with
  | .waitRestart | .between => s.setCmdParse next
  | .length _ | .tag _ _ | .parameters _ _ _ _ | .overlength _ _ _ _ => (s.setCmdParse next).discardCommand

/-- Both parsers are placed in WAIT_RESTART (R15). -/
def State.parsersWait (s : State) : State := (s.interruptDown .waitRestart).interruptCommand .waitRestart

/-! ### Full resets -/

/-- A full reset with its cause: every block takes its full reset values together; the octets of the Shared Buffer
stay in their cells, the identification and the queue of steps are kept, and the frame in progress goes on being
sent with the number it carries (R169, R171, R172; logs 8, 9, 10, 15, 25 and 27). -/
def State.fullReset (s : State) (c : Cause) : State :=
  { State.reset with
    framer :=
      { Framer.reset with
        sentNumber := s.framer.sentNumber, txOctets := s.framer.txOctets, lastFrame := s.framer.lastFrame }
    buffer := { Buffer.reset with cells := s.buffer.cells }
    mgmt := { Mgmt.reset c with ident := s.mgmt.ident }
    quiet := .reset c
    pending := s.pending }

/-- A power-on or pin reset holds the part: as a full reset, and the frame being sent is cut off where it stands
(R20, R169). -/
def State.hold (s : State) (h : Held) (c : Cause) : State :=
  let t := s.fullReset c
  { t with held := h, framer := { t.framer with sentNumber := 0, txOctets := [] } }

/-! ### Poll channels -/

/-- A channel as MASK leaves it (R139). -/
def Channel.masked (c : Channel) : Channel :=
  { c with armed := false, pending := false, oneShot := false, runInProgress := false, counter := none }

/-! ### Quiet -/

/-- Quiet entry begins, at the end of the Enter Quiet response: the framer leaves OPERATIONAL for QUIET and takes no
frame, both parsers enter WAIT_RESTART and the streams are broken off (R10, R11, R177). -/
def State.beginQuiet (s : State) : State :=
  { s with framer := { s.framer with rx := .quiet, rxBits := [] } }.parsersWait.checkStreams

/-! ### Executing a management command -/

/-- What the execution of a command comes to: the state after its effect, and its response (R157, R158); none for a
DEVICE-scope Reset that takes place at once (R170). -/
structure Judged where
  state : State
  reply : Option (Status × List Octet × Governs)

/-- The command is refused with a status: it changes nothing and carries no results (R157, R158). -/
def refuse (s : State) (st : Status) : Judged := { state := s, reply := some (st, [], .nothing) }

/-- The command is answered OK with results (R157, R158). -/
def accept (s : State) (results : List Octet) : Judged := { state := s, reply := some (.ok, results, .nothing) }

/-- The Supervision Timer is loaded with its interval at a command's execution; interval 0 stops it (R173). -/
def State.loadSupervision (s : State) : State :=
  { s with
    sup := { s.sup with timer := if s.sup.interval = 0 then none else some (1000 * s.sup.interval.toNat) } }

/-- The response joins the tail of the Response Queue (R155, R158). -/
def State.respond (s : State) (c : Command) : Option (Status × List Octet × Governs) → State
  | none => s
  | some (st, results, g) =>
    { s with
      mgmt :=
        { s.mgmt with
          responses :=
            s.mgmt.responses ++ [{ tag := c.tag, code := c.code, status := st, results := results, governs := g }] } }

/-- The Management Unit may execute the head command: the Response Queue has room and the execution state is READY (R155). -/
def Mgmt.mayExecute (m : Mgmt) : Bool :=
  decide (m.responses.length < Config.responseQueueSize) && m.exec == .ready

/-- The execution of the command at the head of the Command Input Buffer, when it is one that `names` picks and the
conditions of R155 hold: it leaves the buffer, is judged and answered, and the Supervision Timer is loaded (R155).
In any other state the step does not arise and changes nothing (log 1, log 2). -/
def State.execute (s : State) (names : Command → Bool) (judge : Command → State → Judged) : State :=
  match s.mgmt.cib with
  | [] => s
  | c :: rest =>
    if names c && s.mgmt.mayExecute then
      let j := judge c { s with mgmt := { s.mgmt with cib := rest } }
      (j.state.respond c j.reply).loadSupervision
    else s

/-- The commands with a code, overlength records aside. -/
def hasCode (code : Octet) (c : Command) : Bool := !c.overlength && c.code == code

end Sys2Proof.Machine
end

