-- ==== Sys2Proof/Machine/Clock.lean ====
section
/-! DEFINITION. The part's 1 ms time reference: one millisecond of the timers that count it (R120, R136, R173), and the expiries that are due at the end of one (log 4). -/

namespace Sys2Proof.Machine

/-- A timer a millisecond later. -/
def countDown (t : Option Nat) : Option Nat := t.map fun ms => ms - 1

/-- A line's reply timer a millisecond later (R120). -/
def Line.tick (l : Line) : Line := { l with wait := l.wait.map fun w => { w with timer := countDown w.timer } }

/-- A channel's interval counter a millisecond later (R136). -/
def Channel.tick (c : Channel) : Channel := { c with counter := countDown c.counter }

/-- The time reference runs: the part is not held in reset (R169) and not in its Quiet state (R177). -/
def State.timeRuns (s : State) : Bool := s.held == .no && !s.quiet.flag

/-- A millisecond passes: the reply timers, interval counters and the Supervision Timer count down. -/
def State.tick (s : State) : State :=
  if s.timeRuns then
    { (s.mapLines Line.tick).mapChans Channel.tick with sup := { s.sup with timer := countDown s.sup.timer } }
  else s

/-- The reply timeout of a wait that has not begun has elapsed (R120). -/
def Line.replyDue (l : Line) : Bool := l.wait.any fun w => !w.begun && w.timer == some 0

/-- The interval counter of an ARMED TIMER channel has run out (R136). -/
def Channel.intervalDue (c : Channel) : Bool := c.armed && c.settings.trigger == .timer && c.counter == some 0

/-- The expiry that is due: a reply timer's, an interval counter's or the Supervision Timer's, in this order and the
lowest number first (R120, R136, R173; log 4). A channel that is eligible or a command that is due holds none of them
back: a grant and an execution come from the queue alone, which is the model's choice (R142, R155; log 30). -/
def State.dueExpiry (s : State) : Option Instr :=
  if s.timeRuns then
    match allLines.find? fun n => (s.line n).replyDue, allChannels.find? fun c => (s.chan c).intervalDue with
    | some n, _ => some (.replyTimeout n)
    | none, some c => some (.pollIntervalExpiry c)
    | none, none => if s.sup.timer = some 0 then some .supervisionExpiry else none
  else none

end Sys2Proof.Machine
end

