-- ==== Sys2Proof/Machine/Receiver.lean ====
section
/-! DEFINITION. The line receivers: start edges, characters, breaks, the waits for a high line, the gap timer, and the receiver switch (R24 to R33, R38, R58, R62). -/

namespace Sys2Proof.Machine

/-- START_EDGE: a falling edge on LnRX in HUNT begins a character; in any other state it begins none (R24, R27). -/
def execStartEdge (n : LineNo) (s : State) : Host.Outcome State Fault Refusal :=
  .next (if (s.line n).rx = .hunt then s.modLine n fun l => { l with rx := .start } else s)

/-- START_BIT_SAMPLE: low enters RECEIVING, high drops the edge as noise (R24). -/
def execStartBitSample (n : LineNo) (level : Bool) (s : State) : Host.Outcome State Fault Refusal :=
  .next
    (if (s.line n).rx = .start then s.modLine n fun l => { l with rx := if level then .hunt else .receiving } else s)

/-- The receive counters after a character is staged (R28). -/
def LineCounters.staged (e : StageEntry) (c : LineCounters) : LineCounters :=
  { c with
    characters := satInc c.characters
    parity := if e.parity then satInc c.parity else c.parity
    framing := if e.framing then satInc c.framing else c.framing
    breaks := if e.brk then satInc c.breaks else c.breaks }

/-- A character is staged: it takes OVERRUN-BEFORE from the overrun-pending flag, is counted and reloads a running
gap timer; the Record Assembler then takes what it can (R28, R55, R58). -/
def State.stageChar (s : State) (n : LineNo) (e : StageEntry) : State :=
  (s.modLine n fun l =>
      { l with
        stage := l.stage ++ [.char { e with overrunBefore := l.overrunPending }]
        overrunPending := false
        gapTimer := l.gapTimer.map fun _ => l.params.gap
        counters := l.counters.staged e }).serve n

/-- A character is lost to a full stage (R29, R72). -/
def State.loseChar (s : State) (n : LineNo) : State :=
  (s.modLine n fun l =>
      { l with
        overrunPending := true
        lossWhileStarved := l.lossWhileStarved || l.starved
        counters := { l.counters with overruns := satInc l.counters.overruns } }).raise (.lineLoss n)

/-- A receiver whose character has ended: a BREAK takes it into BREAK_HOLD, any other into HUNT (R26). -/
def Line.charEnded (brk : Bool) (l : Line) : Line :=
  if brk then { l with rx := .breakHold, highWait := some 1 } else { l with rx := .hunt }

/-- A completed character: discarded as an echo, staged, or lost (R26, R28, R29, R30). -/
def State.completeChar (s : State) (n : LineNo) (samples : BitVec 11) : State :=
  let e := classify (s.line n).params samples
  let t := s.modLine n (Line.charEnded e.brk)
  if (s.line n).params.echo && (s.line n).sending then t
  else if (s.line n).stageCount < Config.stageSize then t.stageChar n e
  else t.loseChar n

/-- CHARACTER_COMPLETE, in RECEIVING (R26). -/
def execCharacterComplete (n : LineNo) (samples : BitVec 11) (s : State) : Host.Outcome State Fault Refusal :=
  .next (if (s.line n).rx = .receiving then s.completeChar n samples else s)

/-- BREAK_HOLD_END (R27). -/
def execBreakHoldEnd (n : LineNo) (s : State) : Host.Outcome State Fault Refusal :=
  .next (if (s.line n).rx = .breakHold then s.modLine n fun l => { l with rx := .hunt, highWait := none } else s)

/-- SETTLE_END (R38). -/
def execSettleEnd (n : LineNo) (s : State) : Host.Outcome State Fault Refusal :=
  .next (if (s.line n).rx = .settle then s.modLine n fun l => { l with rx := .hunt, highWait := none } else s)

/-- The high time a receiver waits for, in bit times: one bit time in BREAK_HOLD, a character time in SETTLE (R27, R38). -/
def Line.fullWait (l : Line) : Option Nat :=
  match l.rx with
  | .breakHold => some 1
  | .settle => some l.params.charBits
  | .off | .hunt | .start | .receiving | .watch => none

/-- LINE_LOW_IN_WAIT: the wait of BREAK_HOLD or SETTLE begins again, in full (R27, R38). -/
def execLineLowInWait (n : LineNo) (s : State) : Host.Outcome State Fault Refusal :=
  .next
    (if (s.line n).rx = .breakHold ∨ (s.line n).rx = .settle then
      s.modLine n fun l => { l with highWait := l.fullWait }
    else s)

/-- The gap timer expires: the open record closes with no flag, or the continuation marking is cleared; the timer
stops; a reply that ended may let the transmitter begin (R58, R59, R67). -/
def State.gapExpires (s : State) (n : LineNo) : State :=
  ((s.turnAway n).modLine n fun l => { l with gapTimer := none }).tryBegin n

/-- GAP_EXPIRY, while the gap timer runs (R58). -/
def execGapExpiry (n : LineNo) (s : State) : Host.Outcome State Fault Refusal :=
  .next (if (s.line n).gapTimer.isSome then s.gapExpires n else s)

/-- Receiver-on (R32). -/
def State.receiverOn (s : State) (n : LineNo) : State :=
  if (s.line n).rx = .off then
    s.modLine n fun l => { l with rx := .hunt, stage := [], overrunPending := false, selection := none }
  else s

/-- A line whose receiver is switched off, before its open record closes: reception is abandoned, the stage with its
markers is emptied, the flags and the selection are cleared, and the line leaves the starved set (R33, R62). -/
def Line.switchOff (l : Line) : Line :=
  { l with
    rx := .off, highWait := none, stage := [], overrunPending := false, selection := none, starved := false
    lossWhileStarved := false }

/-- Receiver-off: then the open record closes TRUNCATED, the continuation marking is cleared and the gap timer stops;
a response that ended may let the transmitter begin (R33, R62, R67, R123; log 16). -/
def State.receiverOff (s : State) (n : LineNo) : State :=
  if (s.line n).rx = .off then s
  else
    ((((s.modLine n Line.switchOff).closeRecord n .truncated).clearCont n).modLine n fun l =>
        { l with gapTimer := none }).tryBegin n

end Sys2Proof.Machine
end

