-- ==== Sys2Proof/Machine/Transmitter.lean ====
section
/-! DEFINITION. The line transmitters: the rest and the end of a record, the reply wait's expiry, the transmitter switch and the flush (R117 to R126). -/

namespace Sys2Proof.Machine

/-- TRANSMIT_REST_END: LnTX has been high for a bit time, and the head record may begin (R117). In the Quiet state
the part acts on no such event (R178). -/
def execTransmitRestEnd (n : LineNo) (s : State) : Host.Outcome State Fault Refusal :=
  .next
    (if (s.line n).resting ∧ s.quiet.flag = false then
      (s.modLine n fun l => { l with resting := false }).tryBegin n
    else s)

/-- A line at the end of the last element of its head record: LnDE is negated, LnTX rests high, the record leaves the
queue and is counted as sent (R117, R119). -/
def Line.elementEnded (rest : List DownRecord) (l : Line) : Line :=
  { l with
    sending := false
    wave := []
    resting := true
    downQueue := rest
    counters := { l.counters with recordsSent := satInc l.counters.recordsSent } }

/-- The reply wait that a sent record begins (R120). -/
def DownRecord.replyWait (r : DownRecord) (p : LineParams) : ReplyWait :=
  { station := r.station, channel := r.channel, begun := false, timer := some (10 * p.replyTimeout) }

/-- The end of a record: it is released with its wake pass; then a record with its reply flag begins the reply wait,
and one without ends its errand, SENT (R119, R120, R125, R148; log 12). -/
def State.recordEnd (s : State) (n : LineNo) (r : DownRecord) (rest : List DownRecord) : State :=
  let t := (s.modLine n (Line.elementEnded rest)).release r.chain r.desc
  if r.reply then t.modLine n fun l => { l with wait := some (r.replyWait l.params) }
  else (t.modLine n Line.settleDrain).pollEnd r.channel .sent

/-- TRANSMIT_RECORD_END, while a record is being sent (R119). -/
def execTransmitRecordEnd (n : LineNo) (s : State) : Host.Outcome State Fault Refusal :=
  .next
    (if (s.line n).sending then
      match (s.line n).downQueue with
      | [] => s
      | r :: rest => s.recordEnd n r rest
    else s)

/-- The NO_REPLY record of an expired wait: length 0, no flag, no payload, no block (R68). -/
def noReplyRecord (w : ReplyWait) (desc : Nat) : UpRecord where
  desc := desc
  chain := []
  kind := .noReply
  length := 0
  flags :=
    { parity := false, framing := false, overrun := false, brk := false, truncated := false, continued := false
      late := false }
  station := some w.station
  channel := some w.channel
  firstError := none

/-- The NO_REPLY claim and its record, or LINE_LOSS when no descriptor is free (R68, R79, R122). -/
def State.noReply (s : State) (n : LineNo) (w : ReplyWait) : State :=
  match s.buffer.takeDesc with
  | none => s.raise (.lineLoss n)
  | some (d, b) =>
    { s with buffer := b }.modLine n fun l => { l with upQueue := l.upQueue ++ [noReplyRecord w d] }

/-- A line whose reply wait has expired: counted, the last-expired context set, the wait discarded (R68, R122). -/
def Line.waitExpired (w : ReplyWait) (l : Line) : Line :=
  Line.settleDrain
    { l with
      wait := none
      lastExpired := some { station := w.station, channel := w.channel }
      counters := { l.counters with noReplies := satInc l.counters.noReplies } }

/-- The expiry of an unbegun reply wait, in the order of R122; the transmitter may then begin (R117). -/
def State.replyExpires (s : State) (n : LineNo) (w : ReplyWait) : State :=
  (((s.noReply n w).modLine n (Line.waitExpired w)).pollEnd w.channel .noReply).tryBegin n

/-- REPLY_TIMEOUT, when the reply timeout of a wait that has not begun has elapsed (R120, R122). -/
def execReplyTimeout (n : LineNo) (s : State) : Host.Outcome State Fault Refusal :=
  .next
    (match (s.line n).wait with
    | none => s
    | some w => if w.begun = false ∧ w.timer = some 0 then s.replyExpires n w else s)

/-- Transmitter-on: OFF becomes IDLE, a drain is withdrawn; the head record may begin (R117, R124). -/
def State.transmitterOn (s : State) (n : LineNo) : State := (s.modLine n fun l => { l with txMode := .on }).tryBegin n

/-- Transmitter-off: DRAINING, or OFF at once when there is no work and the queue is empty (R125). -/
def State.transmitterOff (s : State) (n : LineNo) : State :=
  s.modLine n fun l =>
    match l.txMode with
    | .on => Line.settleDrain { l with txMode := .draining }
    | .off | .draining => l

/-- The records of a downstream queue that a flush keeps: the one being sent (R126). -/
def Line.flushKept (l : Line) : List DownRecord := if l.sending then l.downQueue.take 1 else []

/-- The records of a downstream queue that a flush discards (R126). -/
def Line.flushed (l : Line) : List DownRecord := if l.sending then l.downQueue.drop 1 else l.downQueue

/-- The flush: the records not begun are released in one release with one wake pass, each poll record among them is
reported ABANDONED, and a DRAINING transmitter left without work is OFF (R83, R125, R126, R148; log 28). That their
chains and descriptors join the tails in the order of the queue is the model's choice (log 29). -/
def State.flush (s : State) (n : LineNo) : State :=
  match (s.line n).flushed with
  | [] => s
  | r :: rs =>
    let t := s.modLine n fun l => { l with downQueue := l.flushKept }
    let t := { t with buffer := (r :: rs).foldl (fun (b : Buffer) (x : DownRecord) => b.giveBack x.chain x.desc) t.buffer }.wakePass
    ((r :: rs).foldl (fun (u : State) (x : DownRecord) => u.pollEnd x.channel .abandoned) t).modLine n Line.settleDrain

end Sys2Proof.Machine
end

