-- ==== Sys2Proof/Machine/LineCommands.lean ====
section
/-! DEFINITION. The line commands: Set Line, Read Line and Line Control with its actions (R22, R23, R31 to R33, R124 to R126). -/

namespace Sys2Proof.Machine

/-- A line that Set Line is refused BUSY on: its receiver or transmitter is not OFF, or it holds an upstream record (R22). -/
def Line.inUse (l : Line) : Bool :=
  !(l.rx == .off) || !(l.txMode == .off) || l.openRec.isSome || !l.upQueue.isEmpty

/-- Set Line (R22). -/
def judgeSetLine (c : Command) (s : State) : Judged :=
  match c.params with
  | [line, rate, data, parity, stop, mark, gap, maxLen, quota, timeout, echo, wake] =>
    match finOf 8 line, LineParams.ofOctets rate data parity stop mark gap maxLen quota timeout echo wake with
    | some n, some p =>
      if (s.line n).inUse then refuse s .busy else accept (s.modLine n fun l => { l with params := p }) []
    | none, _ => refuse s .range
    | some _, none => refuse s .range
  | _ => refuse s .length

/-- SET_LINE (R22). -/
def execSetLine (s : State) : Host.Outcome State Fault Refusal := .next (s.execute (hasCode 0x10) judgeSetLine)

/-- The results of Read Line (R23, R189). -/
def Line.octets (l : Line) : List Octet :=
  l.params.octets ++
    [l.rx.octet, l.transmitter.octet, boolOctet l.selection.isSome, l.selection.getD 0x00, natOctet l.stageCount,
      boolOctet l.overrunPending]

/-- Read Line (R23). -/
def judgeReadLine (c : Command) (s : State) : Judged :=
  match c.params with
  | [line] =>
    match finOf 8 line with
    | none => refuse s .range
    | some n => accept s (s.line n).octets
  | _ => refuse s .length

/-- READ_LINE (R23). -/
def execReadLine (s : State) : Host.Outcome State Fault Refusal := .next (s.execute (hasCode 0x11) judgeReadLine)

/-- A receiver action (R31). -/
def State.receiverAction (s : State) (n : LineNo) : SwitchAction → State
  | .none => s
  | .on => s.receiverOn n
  | .off => s.receiverOff n

/-- A transmitter action (R31). -/
def State.transmitterAction (s : State) (n : LineNo) : SwitchAction → State
  | .none => s
  | .on => s.transmitterOn n
  | .off => s.transmitterOff n

/-- Line Control: the receiver action, then the transmitter action, then the flush (R31). -/
def judgeLineControl (c : Command) (s : State) : Judged :=
  match c.params with
  | [line, rx, tx, fl] =>
    match finOf 8 line, SwitchAction.ofOctet rx, SwitchAction.ofOctet tx, boolOf fl with
    | some n, some rx, some tx, some fl =>
      let t := (s.receiverAction n rx).transmitterAction n tx
      accept (if fl then t.flush n else t) []
    | _, _, _, _ => refuse s .range
  | _ => refuse s .length

/-- LINE_CONTROL (R31). -/
def execLineControl (s : State) : Host.Outcome State Fault Refusal :=
  .next (s.execute (hasCode 0x12) judgeLineControl)

/-- The Line Control commands with a value at a place of their parameters (log 3). -/
def controlNames (place : Nat) (value : Octet) (c : Command) : Bool :=
  hasCode 0x12 c && c.params[place]? == some value

/-- RECEIVER_ON: the execution of a Line Control whose receiver action is ON (R31, R32). -/
def execReceiverOn (s : State) : Host.Outcome State Fault Refusal :=
  .next (s.execute (controlNames 1 0x01) judgeLineControl)

/-- RECEIVER_OFF: the execution of a Line Control whose receiver action is OFF (R31, R33, R62). -/
def execReceiverOff (s : State) : Host.Outcome State Fault Refusal :=
  .next (s.execute (controlNames 1 0x02) judgeLineControl)

/-- TRANSMITTER_ON: the execution of a Line Control whose transmitter action is ON (R31, R124). -/
def execTransmitterOn (s : State) : Host.Outcome State Fault Refusal :=
  .next (s.execute (controlNames 2 0x01) judgeLineControl)

/-- TRANSMITTER_OFF: the execution of a Line Control whose transmitter action is OFF (R31, R125). -/
def execTransmitterOff (s : State) : Host.Outcome State Fault Refusal :=
  .next (s.execute (controlNames 2 0x02) judgeLineControl)

/-- FLUSH: the execution of a Line Control whose flush flag is yes (R31, R126). -/
def execFlush (s : State) : Host.Outcome State Fault Refusal :=
  .next (s.execute (controlNames 3 0x01) judgeLineControl)

end Sys2Proof.Machine
end

