-- ==== Sys2Proof/Machine/Trunk.lean ====
section
/-! DEFINITION. The trunk: the upstream frame and its slots (R1, R2, R14, R94 to R105), and the downstream frames with the two parsers they feed (R3 to R17, R108 to R113, R151 to R154). -/

namespace Sys2Proof.Machine

/-! ### The start of an upstream frame -/

/-- An upstream frame may begin: the part is not held in reset and not in QUIET, and the frame before it has sent all
its octets but the check octet, or there is none (R1, R11, R169). -/
def State.mayStartFrame (s : State) : Bool :=
  s.held == .no && !(s.framer.rx == .quiet) && (s.framer.txOctets.isEmpty || s.framer.txOctets.length == 31)

/-- The frame in progress gets its check octet, computed over the octets sent, and is complete (R1, R183; log 8). -/
def Framer.finishFrame (f : Framer) : Framer :=
  if f.txOctets.isEmpty then f
  else { f with lastFrame := f.txOctets ++ [crc8 (f.txOctets.drop 1)], txOctets := [] }

/-- The exchange of the banks, when a swap is pending (R94). -/
def SlotMap.exchange (m : SlotMap) : SlotMap :=
  if m.swapPending then { m with active := m.active + 1, swapPending := false } else m

/-- A stream that is RESTART-pending becomes IDLE (R103, R105). -/
def StreamPos.freed : StreamPos → StreamPos
  | .idle => .idle
  | .sending k => .sending k
  | .restartPending => .idle

/-- The hold on the line streams ends (R103, R105). -/
def State.endHold (s : State) : State :=
  { s.mapLines fun l => { l with pos := l.pos.freed } with serializer := { s.serializer with lineHold := .none } }

/-- The frame about to begin is a RESTART frame: it is numbered 0, the streams are STOPPED and transmit-enable holds (R14). -/
def Framer.restartDue (f : Framer) : Bool := f.txNumber == 0 && !f.running && f.transmitEnable

/-- What precedes the header at the start of a frame: the bank exchange of a frame 0 (R94), the streams beginning
afresh in a RESTART frame (R14, R103), the end of a hold whose releasing response has ended (R105). -/
def State.beforeHeader (s : State) : State :=
  let s := { s with framer := s.framer.finishFrame }
  let s := if s.framer.txNumber = 0 then { s with slots := s.slots.exchange } else s
  if s.framer.restartDue then { s with framer := { s.framer with running := true } }.endHold
  else if s.serializer.lineHold = .ending then s.endHold
  else s

/-- REMOTE_ALARM as it is sent: the receive state is SEARCH, CONFIRM or ALIGNED (R2). -/
def Framer.remoteAlarm (f : Framer) : Bool := f.rx == .search || f.rx == .confirm || f.rx == .aligned

/-- The start of the next upstream frame: its sync octet and header are sent and the transmit frame number advances
(R1, R2; log 7). -/
def State.startFrame (s : State) : State :=
  let restart := s.framer.restartDue
  let t := s.beforeHeader
  let header :=
    headerOctet t.mgmt.events.attention t.framer.remoteAlarm t.slots.active restart t.framer.txNumber
  { t with
    framer :=
      { t.framer with
        sentNumber := t.framer.txNumber, txNumber := t.framer.txNumber + 1, txOctets := [Config.sync, header] } }

/-- UPSTREAM_FRAME_START (R1, R2, R14, R94, R103, R105). -/
def execUpstreamFrameStart (s : State) : Host.Outcome State Fault Refusal :=
  .next (if s.mayStartFrame then s.startFrame else s)

/-! ### Slots -/

/-- An octet of the frame in progress is sent. -/
def State.sendOctet (s : State) (o : Octet) : State :=
  { s with framer := { s.framer with txOctets := s.framer.txOctets ++ [o] } }

/-- The line that data slot `k` of the frame being sent belongs to (R90). -/
def State.slotOwner (s : State) (k : SlotNo) : Option LineNo :=
  let e := (s.slots.banks[s.slots.active])[k]
  if e.frames.getLsbD s.framer.sentNumber.toNat then e.owner else none

/-- The line stream's position set. -/
def State.setPos (s : State) (n : LineNo) (p : StreamPos) : State := s.modLine n fun l => { l with pos := p }

/-- The head record has been sent: it leaves the queue and is released (R97). -/
def State.recordSent (s : State) (n : LineNo) (r : UpRecord) (rest : List UpRecord) : State :=
  (s.modLine n fun l => { l with pos := .idle, upQueue := rest }).release r.chain r.desc

/-- A data slot that belongs to line `n` while the streams are RUNNING (R96). -/
def State.lineSlot (s : State) (n : LineNo) : State :=
  match (s.line n).pos, (s.line n).upQueue with
  | .idle, r :: _ => (s.sendOctet (r.octet s.buffer 0)).setPos n (.sending 1)
  | .sending k, r :: rest =>
    let t := s.sendOctet (r.octet s.buffer k)
    if r.octetsSent ≤ k + 1 then t.recordSent n r rest else t.setPos n (.sending (k + 1))
  | .idle, [] => s.sendOctet Config.fill
  | .sending _, [] => s.sendOctet Config.fill
  | .restartPending, _ => s.sendOctet Config.fill

/-- Data slot `k` (R96): fill when the streams are STOPPED or the slot belongs to no line. -/
def State.dataSlot (s : State) (k : SlotNo) : State :=
  match if s.framer.running then s.slotOwner k else none with
  | none => s.sendOctet Config.fill
  | some n => s.lineSlot n

/-- UPSTREAM_DATA_SLOT: the next data slot of the frame in progress (R96). -/
def execUpstreamDataSlot (s : State) : Host.Outcome State Fault Refusal :=
  .next
    (if h : 2 ≤ s.framer.txOctets.length ∧ s.framer.txOctets.length < 30 then
      s.dataSlot ⟨s.framer.txOctets.length - 2, by omega⟩
    else s)

/-- The end of a response: it leaves the queue, and what it governs comes about (R101, R105, R156, R171, R177). -/
def State.responseEnd (s : State) (r : Response) (rest : List Response) : State :=
  let t :=
    { s with mgmt := { s.mgmt with responses := rest }, serializer := { s.serializer with mgmtPos := .idle } }
  match r.governs with
  | .nothing => t
  | .deviceReset => t.fullReset .command
  | .quietEntry => t.beginQuiet
  | .lineRelease =>
    if t.serializer.lineHold = .inForce then { t with serializer := { t.serializer with lineHold := .ending } } else t

/-- The management slot (R100). -/
def State.managementSlot (s : State) : State :=
  match if s.framer.running then s.mgmt.responses else [] with
  | [] => s.sendOctet Config.fill
  | r :: rest =>
    match s.serializer.mgmtPos with
    | .idle =>
      let t := s.sendOctet (r.octets.getD 0 Config.fill)
      { t with serializer := { t.serializer with mgmtPos := .sending 1 } }
    | .sending k =>
      let t := s.sendOctet (r.octets.getD k Config.fill)
      if r.octets.length ≤ k + 1 then t.responseEnd r rest
      else { t with serializer := { t.serializer with mgmtPos := .sending (k + 1) } }
    | .restartPending => s.sendOctet Config.fill

/-- MANAGEMENT_SLOT (R100, R101). -/
def execManagementSlot (s : State) : Host.Outcome State Fault Refusal :=
  .next (if s.framer.txOctets.length = 30 then s.managementSlot else s)

/-! ### The Downstream Parser -/

/-- The parse state with `n` octets left to skip (R113). -/
def afterSkip (n : Nat) : DownParse := if n = 0 then .between else .skip (some n)

/-- The first five acceptance checks of a downstream record, in order (R110). -/
def State.checkHeader (s : State) (k : DownKind) (length : Nat) (station : Octet) : Except Discard Station :=
  if length = 0 ∧ k ≠ .sendBreak then .error .badLength
  else
    match s.forward station with
    | none => .error .unknownStation
    | some e =>
      if !e.down then .error .downDisabled
      else if (s.line e.line).refusesRecords then .error .lineOff
      else if Config.downQueueSize ≤ (s.line e.line).downQueue.length then .error .queueFull
      else .ok e

/-- The reply flag of a head-end record (R108). -/
def DownKind.replyFlag (k : DownKind) (e : Station) : Bool :=
  match k with
  | .send => e.replyDefault
  | .sendReply => true
  | .sendBreak => false

/-- The append of a complete record: judged again against its line, then queued, and its line may begin it (R112, R117). -/
def State.appendDown (s : State) (r : DownRecord) : State :=
  if (s.line r.line).refusesRecords then (s.discardDown .lineOff .between).release r.chain r.desc
  else if Config.downQueueSize ≤ (s.line r.line).downQueue.length then
    (s.discardDown .queueFull .between).release r.chain r.desc
  else ((s.setParse .between).modLine r.line fun l => { l with downQueue := l.downQueue ++ [r] }).tryBegin r.line

/-- A complete header: the six acceptance checks, the last of which is the header claim (R110). -/
def State.headerComplete (s : State) (k : DownKind) (length : Nat) (station : Octet) : State :=
  match s.checkHeader k length station with
  | .error reason => s.discardDown reason (afterSkip length)
  | .ok e =>
    match s.buffer.takeDesc with
    | none => s.discardDown .noBuffer (afterSkip length)
    | some (d, b) =>
      let r : DownRecord :=
        { desc := d, chain := [], origin := .headEnd, brk := k == .sendBreak, reply := k.replyFlag e
          station := station, line := e.line, localAddr := e.localAddr, channel := 0xFF, length := length }
      let t := { s with buffer := b }
      if length = 0 then t.appendDown r else t.setParse (.payload r 0)

/-- A payload octet is stored; the last completes the record (R111). -/
def State.storePayload (s : State) (r : DownRecord) (stored : Nat) (o : Octet) : State :=
  let t := { s with buffer := s.buffer.storeOctet r.chain stored o }
  if stored + 1 = r.length then t.appendDown r else t.setParse (.payload r (stored + 1))

/-- A payload octet, with the payload claim at each 16-octet boundary; a refused claim discards the record NO_BUFFER
and releases it (R111). -/
def State.feedPayload (s : State) (r : DownRecord) (stored : Nat) (o : Octet) : State :=
  if stored % Config.blockSize = 0 then
    match s.buffer.takeBlock with
    | none => (s.discardDown .noBuffer (afterSkip (r.length - stored - 1))).release r.chain r.desc
    | some (k, b) => { s with buffer := b }.storePayload { r with chain := r.chain ++ [k] } stored o
  else s.storePayload r stored o

/-- One octet of a data slot, by the parse state (R109 to R113). -/
def State.feedDown (s : State) (o : Octet) : State :=
  match s.parser.parse with
  | .waitRestart => s
  | .between =>
    if o = Config.fill then s
    else
      match DownKind.ofOctet o with
      | some k => s.setParse (.header k none)
      | none => s.discardDown .badKind (.skip none)
  | .header k none => s.setParse (.header k (some o.toNat))
  | .header k (some length) => s.headerComplete k length o
  | .payload r stored => s.feedPayload r stored o
  | .skip none => s.setParse (.skip (some (o.toNat + 1)))
  | .skip (some n) => s.setParse (afterSkip (n - 1))

/-! ### The command parser -/

/-- A complete command: taken into the Command Input Buffer, or discarded when it holds 4 (R153). -/
def State.commandComplete (s : State) (c : Command) : State :=
  let t := s.setCmdParse .between
  if t.mgmt.cib.length < Config.commandBufferSize then
    { t with mgmt := { t.mgmt with cib := t.mgmt.cib ++ [c], accepted := satInc t.mgmt.accepted } }
  else t.discardCommand

/-- One octet of the management slot, by the parse state (R151, R152). -/
def State.feedCommand (s : State) (o : Octet) : State :=
  match s.mgmt.parse with
  | .waitRestart => s
  | .between => if o = Config.fill then s else s.setCmdParse (.length o)
  | .length code => s.setCmdParse (.tag code o.toNat)
  | .tag code length =>
    if length = 0 then s.commandComplete { code := code, length := 0, tag := o, params := [], overlength := false }
    else if length ≤ Config.maxParameters then s.setCmdParse (.parameters code length o [])
    else s.setCmdParse (.overlength code length o length)
  | .parameters code length tag received =>
    let received := received ++ [o]
    if length ≤ received.length then
      s.commandComplete { code := code, length := length, tag := tag, params := received, overlength := false }
    else s.setCmdParse (.parameters code length tag received)
  | .overlength code length tag left =>
    if left ≤ 1 then s.commandComplete { code := code, length := length, tag := tag, params := [], overlength := true }
    else s.setCmdParse (.overlength code length tag (left - 1))

/-! ### Downstream frames -/

/-- The restart event of a frame taken in: it is counted, and both parsers begin afresh (R7, R16, R17). -/
def State.restartEvent (s : State) : State :=
  ({ s with framer := { s.framer with restarts := satInc s.framer.restarts } }.interruptDown .between).interruptCommand
    .between

/-- A good frame is delivered: the restart event first, then the data slots in order and the management slot (R7; log 14). -/
def State.deliver (s : State) (octets : List Octet) : State :=
  let s := if headerRestart (frameOctet octets 1) then s.restartEvent else s
  ((frameSlots octets).foldl State.feedDown s).feedCommand (frameManagement octets)

/-- SEARCH is entered, and the hunt begins with the next bit received: no bit of it has arrived and no candidate is
open (R4, R5, R6, R8, R11). -/
def Framer.beginHunt (f : Framer) : Framer := { f with rx := .search, recent := [], candidates := [], rxBits := [] }

/-- An alignment loss: SEARCH, counted, and TRUNK is raised (R6, R8, R19). -/
def State.loseAlignment (s : State) : State :=
  { s with framer := { s.framer.beginHunt with alignLosses := satInc s.framer.alignLosses } }.raise .trunk

/-- SEARCH: the oldest candidate has its 256 bits and is judged. A good one ends the search: the aligned position is
its start, 256 bits ago, and every other candidate is dropped. A bad one is dropped and the hunt goes on (R4). -/
def State.frameInSearch (s : State) (octets : List Octet) : State :=
  if goodFrame octets then
    { s with
      framer :=
        { s.framer with
          rx := .confirm, goodCount := 1, alignPos := s.framer.bitPos, recent := [], candidates := [], rxBits := [] } }
  else { s with framer := { s.framer with candidates := s.framer.candidates.tail } }

/-- CONFIRM: three good frames in all, or back to SEARCH (R5). -/
def State.frameInConfirm (s : State) (octets : List Octet) : State :=
  if goodFrame octets then
    let f := { s.framer with goodCount := s.framer.goodCount + 1 }
    { s with framer := if 3 ≤ f.goodCount then { f with rx := .aligned, badCount := 0 } else f }
  else { s with framer := { s.framer.beginHunt with goodCount := 0 } }

/-- ALIGNED: waiting for a good frame 0 (R6). -/
def State.frameInAligned (s : State) (octets : List Octet) : State :=
  if goodFrame octets then
    let f := { s.framer with badCount := 0, farAlarm := headerRemoteAlarm (frameOctet octets 1) }
    if headerNumber (frameOctet octets 1) = 0 then
      ({ s with framer := { f with rx := .operational, expected := 1 } }.parsersWait).deliver octets
    else { s with framer := f }
  else
    let t :=
      { s with
        framer :=
          { s.framer with badFrames := satInc s.framer.badFrames, badCount := s.framer.badCount + 1 } }
    if 4 ≤ t.framer.badCount then t.loseAlignment else t

/-- OPERATIONAL: a good frame with the expected number is taken in (R7), a good frame with another number is a cycle
slip (R9), a bad frame is discarded (R8); transmit-enable may cease with any of them (R10, R12, R13). -/
def State.frameInOperational (s : State) (octets : List Octet) : State :=
  if goodFrame octets then
    let f := { s.framer with badCount := 0, farAlarm := headerRemoteAlarm (frameOctet octets 1) }
    if headerNumber (frameOctet octets 1) = s.framer.expected then
      { s with framer := { f with expected := f.expected + 1 } }.checkStreams.deliver octets
    else
      ({ s with framer := { f with rx := .aligned, slips := satInc f.slips } }.raise .trunk).parsersWait.checkStreams
  else
    let t :=
      { s with
        framer :=
          { s.framer with
            badFrames := satInc s.framer.badFrames
            badCount := s.framer.badCount + 1
            expected := s.framer.expected + 1 } }.parsersWait
    if 4 ≤ t.framer.badCount then t.loseAlignment.checkStreams else t

/-- A downstream frame is judged, by the receive state (R3 to R9). -/
def State.judgeFrame (s : State) (octets : List Octet) : State :=
  match s.framer.rx with
  | .search => s.frameInSearch octets
  | .confirm => s.frameInConfirm octets
  | .aligned => s.frameInAligned octets
  | .operational => s.frameInOperational octets
  | .quiet => s

/-! ### The bits of the trunk receive pair -/

/-- A bit in SEARCH: every open candidate takes it, and when the last eight bits received equal D3h they open a
candidate of their own (R4). -/
def Framer.huntBit (f : Framer) (b : Bool) : Framer :=
  let last := (f.recent ++ [b]).drop (f.recent.length - 7)
  { f with
    recent := last
    candidates := f.candidates.map (fun c => c ++ [b]) ++ if last = octetBits Config.sync then [last] else [] }

/-- A bit in SEARCH, and the judgement of the oldest candidate when the bit is its 256th (R3, R4). -/
def State.searchBit (s : State) (b : Bool) : State :=
  let t := { s with framer := s.framer.huntBit b }
  match t.framer.candidates with
  | [] => t
  | c :: _ => if c.length = 256 then t.judgeFrame (octetsOf c) else t

/-- A bit of the frame at the aligned position, and its judgement when the next frame's start is reached, 256 bits
after its own (R3, R5). -/
def State.alignedBit (s : State) (b : Bool) : State :=
  let bits := s.framer.rxBits ++ [b]
  if s.framer.bitPos = s.framer.alignPos then
    { s with framer := { s.framer with rxBits := [] } }.judgeFrame (octetsOf bits)
  else { s with framer := { s.framer with rxBits := bits } }

/-- A bit sampled on the receive pair is counted and taken by the receive state; QUIET takes none (R3, R4, R11). -/
def State.takeBit (s : State) (b : Bool) : State :=
  let t := { s with framer := { s.framer with bitPos := s.framer.bitPos + 1 } }
  match s.framer.rx with
  | .search => t.searchBit b
  | .confirm | .aligned | .operational => t.alignedBit b
  | .quiet => s

/-- DOWNSTREAM_FRAME_JUDGED: the bits of the receive pair, those of the octets after the others, and the judgement of
each frame that is complete with one of them (R3, R182). Nothing is received while the part is held in reset (R169). -/
def execDownstreamFrameJudged (bits : List Bool) (octets : List Octet) (s : State) :
    Host.Outcome State Fault Refusal :=
  .next (if s.held = .no then (bits ++ trunkBits octets).foldl State.takeBit s else s)

end Sys2Proof.Machine
end

