-- ==== Sys2Proof/Machine/Management.lean ====
section
/-! DEFINITION. The commands of the part and of the Management Unit: Read Ident, Read Events, Read Counters, Reset, Set Supervision, Enter Quiet, Read Buffer, and the refusals of unknown and overlength commands (R87, R152, R157 to R167, R170, R174, R176). -/

namespace Sys2Proof.Machine

/-! ### Reading the part -/

/-- Read Ident (R165). -/
def judgeReadIdent (c : Command) (s : State) : Judged :=
  match c.params with
  | [] =>
    accept s
      (halfOctets s.mgmt.ident.partCode ++ [s.mgmt.ident.revision] ++ wordOctets s.mgmt.ident.unit ++
        [s.quiet.lastCause.octet, wakeOctet s.quiet.lastWake, s.sup.interval, s.sup.action.octet])
  | _ :: _ => refuse s .length

/-- READ_IDENT (R165, R188). -/
def execReadIdent (s : State) : Host.Outcome State Fault Refusal := .next (s.execute (hasCode 0x01) judgeReadIdent)

/-- Read Events: the present conditions are returned in order and become absent (R160, R161). -/
def judgeReadEvents (c : Command) (s : State) : Judged :=
  match c.params with
  | [] =>
    let out := Events.drainInto Condition.all s.mgmt.events []
    accept { s with mgmt := { s.mgmt with events := out.1 } } out.2
  | _ :: _ => refuse s .length

/-- READ_EVENTS (R160, R161). -/
def execReadEvents (s : State) : Host.Outcome State Fault Refusal := .next (s.execute (hasCode 0x02) judgeReadEvents)

/-! ### Counters -/

/-- The counter groups (R162, R188). -/
inductive CounterGroup where
  | line (n : LineNo)
  | trunk | discards | management
  deriving DecidableEq, Repr

/-- Counter groups (R188). -/
def CounterGroup.ofOctet (o : Octet) : Option CounterGroup :=
  if o = 0x08 then some .trunk
  else if o = 0x09 then some .discards
  else if o = 0x0A then some .management
  else (finOf 8 o).map .line

/-- The per-line counters in result order (R162). -/
def LineCounters.values (c : LineCounters) : List Half :=
  [c.characters, c.parity, c.framing, c.breaks, c.overruns, c.ignored, c.recordsClosed, c.recordsTruncated,
    c.recordsSent, c.noReplies, c.late]

/-- The downstream discard counters in result order (R162). -/
def DiscardCounters.values (c : DiscardCounters) : List Half :=
  [c.badKind, c.badLength, c.unknownStation, c.downDisabled, c.lineOff, c.queueFull, c.noBuffer, c.interrupted]

/-- The counters of a group in result order (R162). -/
def State.counters (s : State) : CounterGroup → List Half
  | .line n => (s.line n).counters.values
  | .trunk => [s.framer.badFrames, s.framer.alignLosses, s.framer.slips, s.framer.restarts]
  | .discards => s.parser.discards.values
  | .management => [s.mgmt.accepted, s.mgmt.discarded]

/-- The trunk counters at 0 (R18). -/
def Framer.clearCounters (f : Framer) : Framer := { f with badFrames := 0, alignLosses := 0, slips := 0, restarts := 0 }

/-- The counters of a group at 0 (R163). -/
def State.clearCounters (s : State) : CounterGroup → State
  | .line n => s.modLine n fun l => { l with counters := .zero }
  | .trunk => { s with framer := s.framer.clearCounters }
  | .discards => { s with parser := { s.parser with discards := .zero } }
  | .management => { s with mgmt := { s.mgmt with accepted := 0, discarded := 0 } }

/-- Read Counters (R162, R163). -/
def judgeReadCounters (c : Command) (s : State) : Judged :=
  match c.params with
  | [group, clear] =>
    match CounterGroup.ofOctet group, boolOf clear with
    | some g, some clear => accept (if clear then s.clearCounters g else s) ((s.counters g).flatMap halfOctets)
    | none, _ => refuse s .range
    | some _, none => refuse s .range
  | _ => refuse s .length

/-- READ_COUNTERS (R162, R163). -/
def execReadCounters (s : State) : Host.Outcome State Fault Refusal :=
  .next (s.execute (hasCode 0x03) judgeReadCounters)

/-! ### Reset -/

/-- The Reset commands that the row of a scope names; one that is refused, for its parameter count or its scope, is
named by every row of Reset (log 2). -/
def resetNames (sc : Scope) (c : Command) : Bool :=
  hasCode 0x04 c &&
    match c.params with
    | [o] => Scope.ofOctet o == some sc || Scope.ofOctet o == none
    | _ => true

/-- Reset, with the effect of its scope after the checks of the count and the scope (R170). -/
def judgeReset (sc : Scope) (effect : State → Judged) (c : Command) (s : State) : Judged :=
  match c.params with
  | [o] => if Scope.ofOctet o = some sc then effect s else refuse s .range
  | _ => refuse s .length

/-- Reset of DEVICE scope: it awaits its response, or takes place at once, unanswered, when transmit-enable does not
hold (R156, R170, R171). -/
def deviceReset (s : State) : Judged :=
  if s.framer.transmitEnable then
    { state := { s with mgmt := { s.mgmt with exec := .awaitingReset } }, reply := some (.ok, [], .deviceReset) }
  else { state := s.fullReset .command, reply := none }

/-- RESET_DEVICE (R170). -/
def execResetDevice (s : State) : Host.Outcome State Fault Refusal :=
  .next (s.execute (resetNames .device) (judgeReset .device deviceReset))

/-- A Line Unit at a LINES-scope reset: its reset values, but its parameters and counters are kept and its upstream
stream is RESTART-pending (R40, R71, R75, R104, R127, R129). -/
def Line.linesReset (l : Line) : Line :=
  { Line.reset with params := l.params, pos := .restartPending, counters := l.counters }

/-- The Downstream Parser at a LINES-scope reset: a record under construction is discarded INTERRUPTED and its
remaining octets are skipped (R114). -/
def State.linesResetParser (s : State) : State :=
  match s.parser.parse with
  | .waitRestart | .between | .skip _ => s
  | .header _ none => s.discardDown .interrupted (.skip none)
  | .header _ (some length) => s.discardDown .interrupted (.skip (some (length + 1)))
  | .payload r stored => s.discardDown .interrupted (afterSkip (r.length - stored))

/-- A channel at a LINES-scope reset (R150). -/
def Channel.linesReset (c : Channel) : Channel :=
  { settings := c.settings, armed := false, pending := false, oneShot := false, current := c.settings.baseIndex
    count := c.settings.baseCount, counter := none, outstanding := false, runInProgress := false, outcome := .none
    missed := c.missed }

/-- The responses a LINES-scope reset keeps: the one the management stream is sending; it governs nothing any more
(R104, R105, R166). -/
def State.keptResponses (s : State) : List Response :=
  match s.serializer.mgmtPos with
  | .sending _ => (s.mgmt.responses.take 1).map fun r => { r with governs := .nothing }
  | .idle | .restartPending => []

/-- A LINES-scope reset: every block takes its LINES-scope values (R40, R71, R75, R89, R104, R107, R114, R127, R129,
R150, R166, R168). -/
def State.linesReset (s : State) : State :=
  let t := (s.mapLines Line.linesReset).linesResetParser
  { t.mapChans Channel.linesReset with
    buffer := { Buffer.reset with cells := s.buffer.cells }
    serializer := { t.serializer with lineHold := .inForce }
    mgmt := { t.mgmt with parse := .waitRestart, cib := [], responses := s.keptResponses } }

/-- RESET_LINES: its OK response releases the line streams (R105, R166). -/
def execResetLines (s : State) : Host.Outcome State Fault Refusal :=
  .next
    (s.execute (resetNames .lines)
      (judgeReset .lines fun t => { state := t.linesReset, reply := some (.ok, [], .lineRelease) }))

/-- Every counter of the part at 0 (R167). -/
def State.countersReset (s : State) : State :=
  let t := (s.mapLines fun l => { l with counters := .zero }).mapChans fun c => { c with missed := 0 }
  { t with
    framer := t.framer.clearCounters
    parser := { t.parser with discards := .zero }
    mgmt := { t.mgmt with accepted := 0, discarded := 0 } }

/-- RESET_COUNTERS (R167). -/
def execResetCounters (s : State) : Host.Outcome State Fault Refusal :=
  .next (s.execute (resetNames .counters) (judgeReset .counters fun t => accept t.countersReset []))

/-! ### Supervision and Quiet -/

/-- Set Supervision (R174); the execution itself loads the timer with the new interval (R173). -/
def judgeSetSupervision (c : Command) (s : State) : Judged :=
  match c.params with
  | [interval, action] =>
    match boolOf action with
    | none => refuse s .range
    | some reset =>
      accept { s with sup := { s.sup with interval := interval, action := if reset then .reset else .hold } } []
  | _ => refuse s .length

/-- SET_SUPERVISION (R174). -/
def execSetSupervision (s : State) : Host.Outcome State Fault Refusal :=
  .next (s.execute (hasCode 0x05) judgeSetSupervision)

/-- What makes Enter Quiet BUSY: a reply wait, a record being sent, an outstanding channel, or transmit-enable not
holding (R176). -/
def State.quietBusy (s : State) : Bool :=
  (allLines.any fun n => (s.line n).wait.isSome || (s.line n).sending) ||
    (allChannels.any fun c => (s.chan c).outstanding) || !s.framer.transmitEnable

/-- Enter Quiet: the flag is stored, every Quiet hold is set, and the execution state awaits the response (R176). -/
def judgeEnterQuiet (c : Command) (s : State) : Judged :=
  match c.params with
  | [wake] =>
    match boolOf wake with
    | none => refuse s .range
    | some w =>
      if s.quietBusy then refuse s .busy
      else
        { state :=
            { s.mapLines fun l => { l with quietHold := true } with
              quiet := { s.quiet with wakeOnTrunk := w }
              mgmt := { s.mgmt with exec := .awaitingQuiet } }
          reply := some (.ok, [], .quietEntry) }
  | _ => refuse s .length

/-- ENTER_QUIET (R176). -/
def execEnterQuiet (s : State) : Host.Outcome State Fault Refusal := .next (s.execute (hasCode 0x06) judgeEnterQuiet)

/-! ### The Shared Buffer's state -/

/-- What Read Buffer gives of a line (R87, R193). -/
def Line.bufferOctets (l : Line) : List Octet :=
  [natOctet l.upBlocks, natOctet l.upQueue.length, natOctet l.downQueue.length, boolOctet l.starved]

/-- Read Buffer (R87). -/
def judgeReadBuffer (c : Command) (s : State) : Judged :=
  match c.params with
  | [] =>
    accept s
      (halfOctets (BitVec.ofNat 16 s.buffer.freeBlocks.length) ++
        [natOctet s.buffer.freeDescs.length, natOctet s.buffer.wakePtr.val] ++
        allLines.flatMap fun n => (s.line n).bufferOctets)
  | _ :: _ => refuse s .length

/-- READ_BUFFER (R87, R193). -/
def execReadBuffer (s : State) : Host.Outcome State Fault Refusal := .next (s.execute (hasCode 0x60) judgeReadBuffer)

/-! ### Commands that name nothing -/

/-- The codes of the commands (R187). -/
def knownCodes : List Octet :=
  [0x01, 0x02, 0x03, 0x04, 0x05, 0x06, 0x10, 0x11, 0x12, 0x20, 0x21, 0x22, 0x30, 0x31, 0x32, 0x40, 0x41, 0x50, 0x51,
    0x52, 0x53, 0x60]

/-- UNKNOWN_COMMAND: a code that names no command is refused UNKNOWN (R157, R187). -/
def execUnknownCommand (s : State) : Host.Outcome State Fault Refusal :=
  .next (s.execute (fun c => !c.overlength && !knownCodes.contains c.code) fun _ t => refuse t .unknown)

/-- OVERLENGTH_COMMAND: a record marked overlength is refused LENGTH, whatever its code (R152, R157). -/
def execOverlengthCommand (s : State) : Host.Outcome State Fault Refusal :=
  .next (s.execute (fun c => c.overlength) fun _ t => refuse t .length)

end Sys2Proof.Machine
end

