-- ==== Sys2Proof/Machine/Poll.lean ====
section
/-! DEFINITION. The Poll Engine: interval triggers, the arbiter's eligibility and choice, and the grant (R136, R137, R141 to R149). -/

namespace Sys2Proof.Machine

/-- A trigger from the interval counter: missed by a pending channel and by an outstanding RUN channel, and otherwise
a request (R137). -/
def Channel.trigger (c : Channel) : Channel :=
  if c.pending || (c.outstanding && c.settings.mode == .run) then { c with missed := satInc c.missed }
  else { c with pending := true }

/-- The interval counter runs out: it is loaded again, and the channel receives a trigger (R136, R137). -/
def Channel.intervalExpires (c : Channel) : Channel :=
  { c with counter := some (10 * c.settings.interval) }.trigger

/-- POLL_INTERVAL_EXPIRY, when the counter of an ARMED TIMER channel has run out, outside the Quiet state (R136,
R137). -/
def execPollIntervalExpiry (c : ChannelNo) (s : State) : Host.Outcome State Fault Refusal :=
  .next
    (if (s.chan c).armed ∧ (s.chan c).settings.trigger = .timer ∧ (s.chan c).counter = some 0 ∧ s.quiet.flag = false then
      s.modChan c Channel.intervalExpires
    else s)

/-- Some channel aimed at the line is outstanding (R141, condition 4). -/
def State.lineHasPoll (s : State) (n : LineNo) : Bool :=
  allChannels.any fun c => (s.chan c).outstanding && (s.chan c).settings.target == n

/-- The five conditions of R141. -/
def State.eligible (s : State) (c : ChannelNo) : Bool :=
  let n := (s.chan c).settings.target
  (s.chan c).pending && (s.line n).txMode == .on && !(s.line n).quietHold &&
    decide ((s.line n).downQueue.length < Config.downQueueSize) && !s.lineHasPoll n &&
    !s.buffer.freeDescs.isEmpty && !s.buffer.freeBlocks.isEmpty

/-- The order in which the arbiter looks at the channels (R142). -/
def Poll.order (p : Poll) : List ChannelNo :=
  match p.mode with
  | .fixed => allChannels
  | .rotating => rotation p.pointer

/-- The channel the arbiter chooses (R142). -/
def State.choice (s : State) : Option ChannelNo := s.poll.order.find? s.eligible

/-- A channel after its request is taken and its record made: the position moves (R145, steps 1, 5 and 6). -/
def Channel.granted (c : Channel) : Channel :=
  { c with
    pending := false
    oneShot := false
    outstanding := true
    current := if c.settings.step = .advance then c.current + 1 else c.current
    count := c.count - 1 }

/-- A channel at its terminal count: reloaded, or its pass ended MASKED (R147). -/
def Channel.terminal (c : Channel) : Channel :=
  if c.settings.reload then
    { c with current := c.settings.baseIndex, count := c.settings.baseCount, runInProgress := false }
  else { c with armed := false, counter := none, runInProgress := false }

/-- A channel after a grant that made a record (R145, steps 5 to 7; R147). -/
def Channel.afterGrant (c : Channel) : Channel :=
  let g := c.granted
  if g.count = 0 then g.terminal
  else { g with runInProgress := c.armed && c.settings.mode == .run && !c.oneShot }

/-- The station check of a grant: valid, downstream permitted, on the channel's target line (R42, R145, step 3). -/
def State.grantStation (s : State) (c : ChannelNo) (e : Script) : Option Station :=
  match s.forward e.station with
  | none => none
  | some st => if st.down && st.line == (s.chan c).settings.target then some st else none

/-- The poll record (R108, R145, step 4). -/
def pollRecord (c : ChannelNo) (e : Script) (st : Station) (desc block : Nat) : DownRecord :=
  { desc := desc, chain := [block], origin := .poll, brk := false, reply := e.reply, station := e.station
    line := st.line, localAddr := st.localAddr, channel := natOctet c.val, length := e.payload.length }

/-- A script fault: the channel is MASKED where it stands, and POLL_FAULT is raised (R146). -/
def State.scriptFault (s : State) (c : ChannelNo) : State := (s.modChan c Channel.masked).raise (.pollFault c)

/-- The record of a grant joins its line's queue, the channel moves on, a terminal count raises POLL_TERMINAL, and the
line may begin the record (R117, R145, R147). -/
def State.makePollRecord (s : State) (c : ChannelNo) (e : Script) (st : Station) : State :=
  match s.buffer.takeBoth with
  | none => s
  | some (d, k, b) =>
    let r := pollRecord c e st d k
    let t :=
      { s with buffer := b.storeAll r.chain 0 e.payload }.modLine r.line fun l =>
        { l with downQueue := l.downQueue ++ [r] }
    let t := if (s.chan c).granted.count = 0 then t.raise (.pollTerminal c) else t
    (t.modChan c Channel.afterGrant).tryBegin r.line

/-- The grant of a channel: the rotation pointer is set to it, and its request is served (R142, R145, R146). -/
def State.grant (s : State) (c : ChannelNo) : State :=
  let s := { s with poll := { s.poll with pointer := c } }
  let e := s.poll.script[(s.chan c).current]
  match s.grantStation c e with
  | none => s.scriptFault c
  | some st => s.makePollRecord c e st

/-- POLL_GRANT: the arbiter's choice, when a channel is eligible (R142). -/
def execPollGrant (s : State) : Host.Outcome State Fault Refusal :=
  .next
    (match s.choice with
    | none => s
    | some c => s.grant c)

end Sys2Proof.Machine
end

