-- ==== Sys2Proof/Machine/PollCommands.lean ====
section
/-! DEFINITION. The commands of the Script Store, the poll channels and the arbiter (R131, R132, R134, R135, R138 to R140, R143). -/

namespace Sys2Proof.Machine

/-- Write Script: the parameter count must be four plus the length parameter; then RANGE (R131). -/
def judgeWriteScript (c : Command) (s : State) : Judged :=
  match c.params with
  | entry :: station :: reply :: length :: payload =>
    if payload.length = length.toNat then
      match finOf 64 entry, boolOf reply, natOf 1 16 length with
      | some k, some r, some _ =>
        accept
          { s with
            poll :=
              { s.poll with
                script := s.poll.script.set k { station := station, reply := r, payload := payload } } } []
      | _, _, _ => refuse s .range
    else refuse s .length
  | _ => refuse s .length

/-- WRITE_SCRIPT (R131). -/
def execWriteScript (s : State) : Host.Outcome State Fault Refusal := .next (s.execute (hasCode 0x40) judgeWriteScript)

/-- Read Script (R132). -/
def judgeReadScript (c : Command) (s : State) : Judged :=
  match c.params with
  | [entry] =>
    match finOf 64 entry with
    | none => refuse s .range
    | some k => accept s (s.poll.script[k]).octets
  | _ => refuse s .length

/-- READ_SCRIPT (R132). -/
def execReadScript (s : State) : Host.Outcome State Fault Refusal := .next (s.execute (hasCode 0x41) judgeReadScript)

/-- A channel that Set Channel is refused BUSY on: ARMED, outstanding or pending (R134). -/
def Channel.inUse (c : Channel) : Bool := c.armed || c.outstanding || c.pending

/-- A channel with its settings replaced and its position at the start of its stretch (R134). -/
def Channel.configure (p : ChannelSettings) (c : Channel) : Channel :=
  { c with settings := p, current := p.baseIndex, count := p.baseCount }

/-- Set Channel: RANGE, then BUSY (R134). -/
def judgeSetChannel (c : Command) (s : State) : Judged :=
  match c.params with
  | [channel, target, base, count, step, mode, reload, trigger, hi, lo] =>
    match finOf 8 channel, ChannelSettings.ofOctets target base count step mode reload trigger hi lo with
    | some k, some p => if (s.chan k).inUse then refuse s .busy else accept (s.modChan k (Channel.configure p)) []
    | none, _ => refuse s .range
    | some _, none => refuse s .range
  | _ => refuse s .length

/-- SET_CHANNEL (R134). -/
def execSetChannel (s : State) : Host.Outcome State Fault Refusal := .next (s.execute (hasCode 0x50) judgeSetChannel)

/-- Read Channel (R135). -/
def judgeReadChannel (c : Command) (s : State) : Judged :=
  match c.params with
  | [channel] =>
    match finOf 8 channel with
    | none => refuse s .range
    | some k => accept s (s.chan k).octets
  | _ => refuse s .length

/-- READ_CHANNEL (R135). -/
def execReadChannel (s : State) : Host.Outcome State Fault Refusal :=
  .next (s.execute (hasCode 0x51) judgeReadChannel)

/-! ### Poll Control -/

/-- The Poll Control commands that the row of an action names; one that is refused for its count or its values is
named by every row of Poll Control (log 2). -/
def pollNames (a : PollAction) (c : Command) : Bool :=
  hasCode 0x52 c &&
    match c.params with
    | [channel, action] =>
      match finOf 8 channel, PollAction.ofOctet action with
      | some _, some b => b == a
      | _, _ => true
    | _ => true

/-- Poll Control, with the effect of its action on a channel after the checks of the count and the values (R138). -/
def judgePollControl (a : PollAction) (effect : ChannelNo → State → Judged) (c : Command) (s : State) : Judged :=
  match c.params with
  | [channel, action] =>
    match finOf 8 channel with
    | none => refuse s .range
    | some k => if PollAction.ofOctet action = some a then effect k s else refuse s .range
  | _ => refuse s .length

/-- A channel as ARM leaves it (R138). -/
def Channel.arm (c : Channel) : Channel :=
  { c with
    armed := true
    pending := false
    oneShot := false
    runInProgress := false
    current := c.settings.baseIndex
    count := c.settings.baseCount
    counter := if c.settings.trigger = .timer then some (10 * c.settings.interval) else none }

/-- ARM (R138). -/
def execArm (s : State) : Host.Outcome State Fault Refusal :=
  .next (s.execute (pollNames .arm) (judgePollControl .arm fun k t => accept (t.modChan k Channel.arm) []))

/-- MASK (R139). -/
def execMask (s : State) : Host.Outcome State Fault Refusal :=
  .next (s.execute (pollNames .mask) (judgePollControl .mask fun k t => accept (t.modChan k Channel.masked) []))

/-- What makes POLL_NOW BUSY: pending, a RUN pass busy, or the count exhausted on a MASKED channel (R140). -/
def Channel.pollNowBusy (c : Channel) : Bool :=
  c.pending || (c.armed && c.settings.mode == .run && c.outstanding) || (!c.armed && c.count == 0)

/-- A channel as POLL_NOW leaves it: pending, as a one-shot when it is MASKED (R140). -/
def Channel.pollNow (c : Channel) : Channel :=
  if c.armed then { c with pending := true } else { c with pending := true, oneShot := true }

/-- POLL_NOW (R140). -/
def execPollNow (s : State) : Host.Outcome State Fault Refusal :=
  .next
    (s.execute (pollNames .pollNow)
      (judgePollControl .pollNow fun k t =>
        if (t.chan k).pollNowBusy then refuse t .busy else accept (t.modChan k Channel.pollNow) []))

/-- Set Arbitration: its answer carries the mode now in force and the rotation pointer, as R143, R187 and R192 say;
that R143 also says no result octets is settled so by the model's choice (log 32). -/
def judgeSetArbitration (c : Command) (s : State) : Judged :=
  match c.params with
  | [mode] =>
    match boolOf mode with
    | none => refuse s .range
    | some rotating =>
      let m : ArbMode := if rotating then .rotating else .fixed
      accept { s with poll := { s.poll with mode := m } } [m.octet, natOctet s.poll.pointer.val]
  | _ => refuse s .length

/-- SET_ARBITRATION (R143). -/
def execSetArbitration (s : State) : Host.Outcome State Fault Refusal :=
  .next (s.execute (hasCode 0x53) judgeSetArbitration)

end Sys2Proof.Machine
end

