-- ==== Sys2Proof/Machine/Supervise.lean ====
section
/-! DEFINITION. Quiet entry and the wakes, the Supervision Timer's expiry, and the power-on and pin resets (R64, R169, R175, R177 to R180). -/

namespace Sys2Proof.Machine

/-- SUPERVISION_EXPIRY, when the timer's remaining time has reached zero, outside the Quiet state: HOLD masks every
channel, raises SUPERVISION and stops the timer; RESET is a supervision reset (R173, R175). -/
def execSupervisionExpiry (s : State) : Host.Outcome State Fault Refusal :=
  .next
    (if s.sup.timer = some 0 ∧ s.quiet.flag = false then
      match s.sup.action with
      | .hold => { s.mapChans Channel.masked with sup := { s.sup with timer := none } }.raise .supervision
      | .reset => s.fullReset .supervision
    else s)

/-- A line at Quiet entry: a receiver that is not OFF enters WATCH (R38). -/
def Line.toWatch (l : Line) : Line := if l.rx = .off then l else { l with rx := .watch, highWait := none }

/-- A line's Record Assembler at Quiet entry: the stage is taken, the open record closes with no flag, the
continuation marking is cleared and the gap timer stops (R64). -/
def State.quietDrain (s : State) (n : LineNo) : State :=
  ((s.drain n).turnAway n).modLine n fun l => { l with gapTimer := none }

/-- QUIET_ENTRY: the frame that carried the Enter Quiet response is complete, and the part is in its Quiet state
(R64, R177; log 13). -/
def execQuietEntry (s : State) : Host.Outcome State Fault Refusal :=
  .next
    (if s.framer.rx = .quiet ∧ s.quiet.flag = false ∧ s.framer.txOctets.length = 31 then
      let t := { s with framer := s.framer.finishFrame, quiet := { s.quiet with flag := true } }.mapLines Line.toWatch
      allLines.foldl State.quietDrain t
    else s)

/-- A line at a wake: WATCH becomes SETTLE with a whole character time to wait, the Quiet hold clears, and the rest
of its LnTX is over (R38, R128, R179; log 15). -/
def Line.woken (l : Line) : Line :=
  let l := { l with quietHold := false, resting := false }
  if l.rx = .watch then { l with rx := .settle, highWait := some l.params.charBits } else l

/-- The framer at a wake: SEARCH with the alignment state at its reset values, and frame 0 next (R11, R12, R179). -/
def Framer.woken (f : Framer) : Framer :=
  { f.beginHunt with
    goodCount := 0, badCount := 0, expected := 0, farAlarm := true, running := false, txNumber := 0 }

/-- A wake: the QUIET flag clears, the source is recorded and WAKE raised with it, the framer, the receivers and the
Management Unit go back to work, and each transmitter with a queued record begins it (R179, R180; log 13). -/
def State.wake (s : State) (source : WakeSource) : State :=
  let t :=
    { s.mapLines Line.woken with
      framer := s.framer.woken
      quiet := { s.quiet with flag := false, lastWake := some source }
      mgmt := { s.mgmt with exec := .ready, events := { s.mgmt.events.raise .wake with source := some source } } }
  allLines.foldl State.tryBegin t

/-- TRUNK_WAKE: a transition on the receive pair, in the Quiet state with wake-on-trunk on (R11, R178, R179). -/
def execTrunkWake (s : State) : Host.Outcome State Fault Refusal :=
  .next (if s.quiet.flag ∧ s.quiet.wakeOnTrunk then s.wake .trunk else s)

/-- LINE_WAKE: a falling edge on LnRX of a wake-enabled line whose receiver is in WATCH (R38, R178, R179). -/
def execLineWake (n : LineNo) (s : State) : Host.Outcome State Fault Refusal :=
  .next
    (if s.quiet.flag ∧ (s.line n).rx = .watch ∧ (s.line n).params.wake then s.wake (.line n) else s)

/-- POWER_ON_RESET: the supply monitor holds the part (R169, R172). -/
def execPowerOnReset (s : State) : Host.Outcome State Fault Refusal := .next (s.hold .power .power)

/-- PIN_RESET: RSTN holds the part; a reset in which the supply monitor holds it too stays a power-on reset (R169, R172). -/
def execPinReset (s : State) : Host.Outcome State Fault Refusal :=
  .next (if s.held = .power then s else s.hold .pin .pin)

/-- RESET_END: every cause that holds the part has ended; the cause is recorded with RESTARTED alone in the Event
Summary, and frame 0 is next (R169, R172; log 23). -/
def execResetEnd (s : State) : Host.Outcome State Fault Refusal :=
  .next
    (match s.held with
    | .no => s
    | .pin => { s.fullReset .pin with held := .no }
    | .power => { s.fullReset .power with held := .no })

end Sys2Proof.Machine
end

