-- ==== Sys2Proof/Machine/TableCommands.lean ====
section
/-! DEFINITION. The commands of the Station Table and of the Slot Map (R46 to R49, R91 to R93). -/

namespace Sys2Proof.Machine

/-- Write Station: RANGE, then BUSY, then CONFLICT, which names the station in the way (R46, R47). -/
def judgeWriteStation (c : Command) (s : State) : Judged :=
  match c.params with
  | [station, valid, line, addr, down, capture, reply] =>
    match Station.ofOctets valid line addr down capture reply with
    | none => refuse s .range
    | some e =>
      if s.referenced station then refuse s .busy
      else
        match if e.valid then s.conflict station e else none with
        | some k => { state := s, reply := some (.conflict, [k], .nothing) }
        | none => accept (s.setStation station e) []
  | _ => refuse s .length

/-- WRITE_STATION (R46, R47). -/
def execWriteStation (s : State) : Host.Outcome State Fault Refusal :=
  .next (s.execute (hasCode 0x20) judgeWriteStation)

/-- Invalidate Station (R48). -/
def judgeInvalidateStation (c : Command) (s : State) : Judged :=
  match c.params with
  | [station] =>
    if s.referenced station then refuse s .busy
    else accept (s.setStation station { s.station station with valid := false }) []
  | _ => refuse s .length

/-- INVALIDATE_STATION (R48). -/
def execInvalidateStation (s : State) : Host.Outcome State Fault Refusal :=
  .next (s.execute (hasCode 0x21) judgeInvalidateStation)

/-- The waiting lines of a station, bit n for line n (R49, R190). -/
def State.waitingLines (s : State) (k : Octet) : Octet :=
  allLines.foldl
    (fun (o : Octet) (n : LineNo) => if (s.line n).waitsFor k then o ||| ((0x01 : Octet) <<< n.val) else o) 0x00

/-- The line that has a station selected, or FFh (R49, R190). -/
def State.selectingLine (s : State) (k : Octet) : Octet :=
  match allLines.find? fun n => (s.line n).selection == some k with
  | some n => natOctet n.val
  | none => 0xFF

/-- Read Station (R49). -/
def judgeReadStation (c : Command) (s : State) : Judged :=
  match c.params with
  | [station] =>
    accept s ((s.station station).octets ++ [s.waitingLines station, s.selectingLine station])
  | _ => refuse s .length

/-- READ_STATION (R49). -/
def execReadStation (s : State) : Host.Outcome State Fault Refusal :=
  .next (s.execute (hasCode 0x22) judgeReadStation)

/-- The Slot Map with an entry of the shadow bank written (R91). -/
def SlotMap.writeShadow (m : SlotMap) (k : SlotNo) (e : SlotEntry) : SlotMap :=
  { m with banks := m.banks.set (m.active + 1 : Fin 2) ((m.banks[(m.active + 1 : Fin 2)]).set k e) }

/-- Write Slot: RANGE, then BUSY (R91). -/
def judgeWriteSlot (c : Command) (s : State) : Judged :=
  match c.params with
  | [slot, owner, hi, lo] =>
    match finOf 28 slot, ownerOf owner with
    | some k, some o =>
      if s.slots.swapPending then refuse s .busy
      else accept { s with slots := s.slots.writeShadow k { owner := o, frames := halfOf hi lo } } []
    | none, _ => refuse s .range
    | some _, none => refuse s .range
  | _ => refuse s .length

/-- WRITE_SLOT (R91). -/
def execWriteSlot (s : State) : Host.Outcome State Fault Refusal := .next (s.execute (hasCode 0x30) judgeWriteSlot)

/-- Read Slot (R92). -/
def judgeReadSlot (c : Command) (s : State) : Judged :=
  match c.params with
  | [bank, slot] =>
    match finOf 2 bank, finOf 28 slot with
    | some b, some k =>
      let e := (s.slots.banks[b])[k]
      accept s
        ([ownerOctet e.owner] ++ halfOctets e.frames ++ [natOctet s.slots.active.val, boolOctet s.slots.swapPending])
    | none, _ => refuse s .range
    | some _, none => refuse s .range
  | _ => refuse s .length

/-- READ_SLOT (R92). -/
def execReadSlot (s : State) : Host.Outcome State Fault Refusal := .next (s.execute (hasCode 0x31) judgeReadSlot)

/-- Swap Banks (R93). -/
def judgeSwapBanks (c : Command) (s : State) : Judged :=
  match c.params with
  | [] =>
    if s.slots.swapPending then refuse s .busy else accept { s with slots := { s.slots with swapPending := true } } []
  | _ :: _ => refuse s .length

/-- SWAP_BANKS (R93). -/
def execSwapBanks (s : State) : Host.Outcome State Fault Refusal := .next (s.execute (hasCode 0x32) judgeSwapBanks)

end Sys2Proof.Machine
end

