-- ==== Sys2Proof/Machine/Dispatch.lean ====
section
/-! DEFINITION. exec: one arm for each constructor of Instr, each one direct call of the command's meaning. -/

namespace Sys2Proof.Machine

/-- The effect of a command on everything but the queue. -/
def exec (i : Instr) (s : State) : Host.Outcome State Fault Refusal :=
  match i with
  | .upstreamFrameStart => Sys2Proof.Machine.execUpstreamFrameStart s
  | .upstreamDataSlot => Sys2Proof.Machine.execUpstreamDataSlot s
  | .managementSlot => Sys2Proof.Machine.execManagementSlot s
  | .quietEntry => Sys2Proof.Machine.execQuietEntry s
  | .downstreamFrameJudged bits octets => Sys2Proof.Machine.execDownstreamFrameJudged bits octets s
  | .characterComplete n samples => Sys2Proof.Machine.execCharacterComplete n samples s
  | .breakHoldEnd n => Sys2Proof.Machine.execBreakHoldEnd n s
  | .settleEnd n => Sys2Proof.Machine.execSettleEnd n s
  | .gapExpiry n => Sys2Proof.Machine.execGapExpiry n s
  | .replyTimeout n => Sys2Proof.Machine.execReplyTimeout n s
  | .transmitRestEnd n => Sys2Proof.Machine.execTransmitRestEnd n s
  | .transmitRecordEnd n => Sys2Proof.Machine.execTransmitRecordEnd n s
  | .pollIntervalExpiry c => Sys2Proof.Machine.execPollIntervalExpiry c s
  | .pollGrant => Sys2Proof.Machine.execPollGrant s
  | .supervisionExpiry => Sys2Proof.Machine.execSupervisionExpiry s
  | .powerOnReset => Sys2Proof.Machine.execPowerOnReset s
  | .pinReset => Sys2Proof.Machine.execPinReset s
  | .resetEnd => Sys2Proof.Machine.execResetEnd s
  | .trunkWake => Sys2Proof.Machine.execTrunkWake s
  | .lineWake n => Sys2Proof.Machine.execLineWake n s
  | .readIdent => Sys2Proof.Machine.execReadIdent s
  | .readEvents => Sys2Proof.Machine.execReadEvents s
  | .readCounters => Sys2Proof.Machine.execReadCounters s
  | .resetDevice => Sys2Proof.Machine.execResetDevice s
  | .resetLines => Sys2Proof.Machine.execResetLines s
  | .resetCounters => Sys2Proof.Machine.execResetCounters s
  | .setSupervision => Sys2Proof.Machine.execSetSupervision s
  | .enterQuiet => Sys2Proof.Machine.execEnterQuiet s
  | .setLine => Sys2Proof.Machine.execSetLine s
  | .readLine => Sys2Proof.Machine.execReadLine s
  | .receiverOn => Sys2Proof.Machine.execReceiverOn s
  | .receiverOff => Sys2Proof.Machine.execReceiverOff s
  | .transmitterOn => Sys2Proof.Machine.execTransmitterOn s
  | .transmitterOff => Sys2Proof.Machine.execTransmitterOff s
  | .flush => Sys2Proof.Machine.execFlush s
  | .writeStation => Sys2Proof.Machine.execWriteStation s
  | .invalidateStation => Sys2Proof.Machine.execInvalidateStation s
  | .readStation => Sys2Proof.Machine.execReadStation s
  | .writeSlot => Sys2Proof.Machine.execWriteSlot s
  | .readSlot => Sys2Proof.Machine.execReadSlot s
  | .swapBanks => Sys2Proof.Machine.execSwapBanks s
  | .writeScript => Sys2Proof.Machine.execWriteScript s
  | .readScript => Sys2Proof.Machine.execReadScript s
  | .setChannel => Sys2Proof.Machine.execSetChannel s
  | .readChannel => Sys2Proof.Machine.execReadChannel s
  | .arm => Sys2Proof.Machine.execArm s
  | .mask => Sys2Proof.Machine.execMask s
  | .pollNow => Sys2Proof.Machine.execPollNow s
  | .setArbitration => Sys2Proof.Machine.execSetArbitration s
  | .readBuffer => Sys2Proof.Machine.execReadBuffer s
  | .unknownCommand => Sys2Proof.Machine.execUnknownCommand s
  | .overlengthCommand => Sys2Proof.Machine.execOverlengthCommand s
  | .lineControl => Sys2Proof.Machine.execLineControl s
  | .startEdge n => Sys2Proof.Machine.execStartEdge n s
  | .startBitSample n level => Sys2Proof.Machine.execStartBitSample n level s
  | .lineLowInWait n => Sys2Proof.Machine.execLineLowInWait n s

end Sys2Proof.Machine
end

