-- ==== Sys2Proof/Machine/Step.lean ====
section
/-! DEFINITION. One step: the command at the front of the queue, or, on an empty queue, an expiry that is due or one millisecond of the part's time reference (log 4). -/

namespace Sys2Proof.Machine

/-- One step: the command at the front of the queue is taken and executed on the state with the queue's rest. On an
empty queue the part's time goes on: an expiry that is due takes place, and a millisecond passes when none is (log
4); no grant is made and no command is executed on it (R142, R155; log 30). -/
def step (s : State) : Host.Outcome State Fault Refusal :=
  match s.pending with
  | [] =>
    match s.dueExpiry with
    | some i => exec i s
    | none => .next s.tick
  | c :: cs => exec c { s with pending := cs }

/-- The state with the command a word spells at the front of its queue; no word spells one (log 20). -/
def State.withFetchWord (s : State) (nbits w : Nat) : State :=
  match Sys2Proof.decodeTableWord nbits w with
  | none => s
  | some c => { s with pending := c :: s.pending }

end Sys2Proof.Machine
end

