-- ==== Sys2Proof/Safety.lean ====
section
/-! DEFINITION. The laws of the device that the manual states, and the standing facts they rest on, as properties of a state that every step keeps; and the shape of a management command that is due and of its answer. -/

namespace Sys2Proof.Machine

/-! ### Storage (R76, R77, R82) -/

/-- The octets of the Shared Buffer are in canonical form. -/
def State.CellsCanonical (s : State) : Prop := Memory.wf s.buffer.cells = true

/-- The blocks held by the record the Downstream Parser is reading (R76). -/
def DownParse.heldBlocks : DownParse → List Nat
  | .payload r _ => r.chain
  | .waitRestart | .between | .header _ _ | .skip _ => []

/-- The descriptor held by the record the Downstream Parser is reading (R76). -/
def DownParse.heldDescs : DownParse → List Nat
  | .payload r _ => [r.desc]
  | .waitRestart | .between | .header _ _ | .skip _ => []

/-- The blocks held by a line's records: its open record and its two queues (R76). -/
def Line.heldBlocks (l : Line) : List Nat :=
  l.openRec.toList.flatMap (fun r => r.chain) ++ l.upQueue.flatMap (fun r => r.chain) ++
    l.downQueue.flatMap fun r => r.chain

/-- The descriptors held by a line's records (R76). -/
def Line.heldDescs (l : Line) : List Nat :=
  l.openRec.toList.map (fun r => r.desc) ++ l.upQueue.map (fun r => r.desc) ++ l.downQueue.map fun r => r.desc

/-- Every block held by a record (R76). -/
def State.heldBlocks (s : State) : List Nat := allLines.flatMap (fun n => (s.line n).heldBlocks) ++ s.parser.parse.heldBlocks

/-- Every descriptor held by a record (R76). -/
def State.heldDescs (s : State) : List Nat := allLines.flatMap (fun n => (s.line n).heldDescs) ++ s.parser.parse.heldDescs

/-- Each of the 512 blocks and of the 192 descriptors is in exactly one place: free, or held by one record once (R76). -/
def State.StorageConserved (s : State) : Prop :=
  (s.buffer.freeBlocks ++ s.heldBlocks).Perm (List.range Config.blocks) ∧
    (s.buffer.freeDescs ++ s.heldDescs).Perm (List.range Config.descriptors)

/-- No line's upstream records hold more blocks than its quota (R82). -/
def State.QuotasKept (s : State) : Prop := ∀ n : LineNo, (s.line n).upBlocks ≤ (s.line n).params.quota

/-! ### Queues (R28, R116, R153, R158) -/

/-- No queue of bounded size holds more than its size. -/
def State.QueuesBounded (s : State) : Prop :=
  (∀ n : LineNo,
    (s.line n).downQueue.length ≤ Config.downQueueSize ∧ (s.line n).stageCount ≤ Config.stageSize) ∧
    s.mgmt.cib.length ≤ Config.commandBufferSize ∧ s.mgmt.responses.length ≤ Config.responseQueueSize

/-! ### The Station Table (R45, R46) -/

/-- No two valid entries hold the same line and the same local address (R46). -/
def State.StationsUnique (s : State) : Prop :=
  ∀ j k : Octet,
    (s.station j).valid = true → (s.station k).valid = true → (s.station j).line = (s.station k).line →
      (s.station j).localAddr = (s.station k).localAddr → j = k

/-- While a line is SELECTED with a station, that entry is valid, holds that line and has upstream capture (R45). -/
def State.SelectionsHold (s : State) : Prop :=
  ∀ (n : LineNo) (k : Octet),
    (s.line n).selection = some k →
      (s.station k).valid = true ∧ (s.station k).line = n ∧ (s.station k).capture = true

/-! ### Poll channels (R133, R141) -/

/-- An ARMED channel's count lies between 1 and its base count, a MASKED channel's between 0 and its base count (R133). -/
def State.CountsLawful (s : State) : Prop :=
  ∀ c : ChannelNo,
    1 ≤ (s.chan c).settings.baseCount ∧ (s.chan c).count ≤ (s.chan c).settings.baseCount ∧
      ((s.chan c).armed = true → 1 ≤ (s.chan c).count)

/-- At most one channel is outstanding on a line (R141). -/
def State.OnePollPerLine (s : State) : Prop :=
  ∀ c d : ChannelNo,
    (s.chan c).outstanding = true → (s.chan d).outstanding = true →
      (s.chan c).settings.target = (s.chan d).settings.target → c = d

/-- The channels of the poll-issued records of a line: those queued or being sent, and the one whose reply is awaited.
A record of the head end has channel 255 and is no poll-issued one (R108, R120, R141). -/
def Line.pollChannels (l : Line) : List Octet :=
  (l.downQueue.map (fun r => r.channel) ++ l.wait.toList.map fun w => w.channel).filter fun k => decide (k.toNat < 8)

/-- Each line has at most one poll-issued record that is queued, being sent or awaiting its reply; a channel is
outstanding exactly while its target line has its record, and no other line has one; a reply in progress is the
wait's; and the record the Downstream Parser is reading is the head end's (R108, R141, R145, R148). -/
def State.PollRecordsSound (s : State) : Prop :=
  (∀ n : LineNo, (s.line n).pollChannels.length ≤ 1) ∧
    (∀ (n : LineNo) (c : ChannelNo),
      natOctet c.val ∈ (s.line n).pollChannels ↔
        (s.chan c).outstanding = true ∧ (s.chan c).settings.target = n) ∧
    (∀ (n : LineNo) (m : WaitName),
      (s.line n).respMark = some m → ∃ w, (s.line n).wait = some w ∧ w.channel = m.channel) ∧
    ∀ (r : DownRecord) (k : Nat), s.parser.parse = .payload r k → 8 ≤ r.channel.toNat

/-! ### Transmitters, Record Assemblers, streams and events (R116, R58, R14, R159) -/

/-- A transmitter that is OFF has an empty queue, sends nothing and keeps no wait; one that sends has a record to
send and no wait; and a record that is the reply of a wait belongs to a wait that has begun (R66, R116, R120, R125). -/
def State.TransmittersSound (s : State) : Prop :=
  ∀ n : LineNo,
    ((s.line n).txMode = .off → (s.line n).downQueue = [] ∧ (s.line n).sending = false ∧ (s.line n).wait = none) ∧
      ((s.line n).sending = true → (s.line n).downQueue ≠ [] ∧ (s.line n).wait = none) ∧
      ∀ m : WaitName, (s.line n).respMark = some m → ∃ w, (s.line n).wait = some w ∧ w.begun = true

/-- A starved line has no open record; a line has not both an open record and a continuation marking; and its gap timer
runs exactly while it has one of them (R58, R59, R63, R72). -/
def State.AssemblersSound (s : State) : Prop :=
  ∀ n : LineNo,
    ((s.line n).starved = true → (s.line n).openRec = none) ∧
      ((s.line n).openRec = none ∨ (s.line n).cont = none) ∧
      ((s.line n).gapTimer.isSome = true ↔ (s.line n).openRec.isSome = true ∨ (s.line n).cont.isSome = true)

/-- The upstream streams are RUNNING only while transmit-enable holds (R13, R14). -/
def State.StreamsEnabled (s : State) : Prop := s.framer.running = true → s.framer.transmitEnable = true

/-- A present condition's count is not 0 (R159). -/
def State.EventsCounted (s : State) : Prop := ∀ c : Condition, s.mgmt.events.count c ≠ some 0

/-! ### A management command that is due, and its answer -/

/-- The command `c` is at the head of the Command Input Buffer, before `rest`, and the Management Unit may execute it (R155). -/
def State.Due (s : State) (c : Command) (rest : List Command) : Prop :=
  s.mgmt.cib = c :: rest ∧ s.mgmt.responses.length < Config.responseQueueSize ∧ s.mgmt.exec = .ready

/-- A command record that is stored whole: its code, its tag and its parameters (R151). -/
def Command.plain (code tag : Octet) (params : List Octet) : Command :=
  { code := code, length := params.length, tag := tag, params := params, overlength := false }

/-- A full reset with its cause: every block at its reset values, RESTARTED alone with the cause in the Event Summary,
the cause as the last reset cause; the octets of the Shared Buffer and the identification stay, and the frame in
progress goes on (R20, R169, R171, R172; logs 8, 9, 10, 15, 25 and 27). -/
def State.afterFullReset (s : State) (c : Cause) : State :=
  { State.reset with
    framer :=
      { State.reset.framer with
        sentNumber := s.framer.sentNumber, txOctets := s.framer.txOctets, lastFrame := s.framer.lastFrame }
    buffer := { State.reset.buffer with cells := s.buffer.cells }
    mgmt :=
      { State.reset.mgmt with
        ident := s.mgmt.ident, events := { State.reset.mgmt.events with cause := c } }
    quiet := { State.reset.quiet with lastCause := c }
    pending := s.pending }

/-- The values Set Line accepts (R21, R22). -/
def LineParams.Lawful (p : LineParams) : Prop :=
  2 ≤ p.gap ∧ p.gap ≤ 64 ∧ 16 ≤ p.maxLength ∧ p.maxLength ≤ 255 ∧ 1 ≤ p.quota ∧ p.quota ≤ 128 ∧
    1 ≤ p.replyTimeout ∧ p.replyTimeout ≤ 255 ∧
    (p.addressMark = true → p.dataBits = .eight ∧ p.parity = .none)

/-- The values Set Channel accepts (R133, R134). -/
def ChannelSettings.Lawful (p : ChannelSettings) : Prop :=
  1 ≤ p.baseCount ∧ p.baseCount ≤ 64 ∧ 1 ≤ p.interval ∧ p.interval ≤ 6000

/-- The bits that end the frame at the aligned position, whose octets are then `octets` (R3, R183). -/
def Framer.Completes (f : Framer) (bits : List Bool) (octets : List Octet) : Prop :=
  octets.length = 32 ∧ bits ≠ [] ∧ f.rxBits ++ bits = trunkBits octets ∧
    f.bitPos + Fin.ofNat 256 bits.length = f.alignPos

/-- A state whose frame at the aligned position has arrived: the next bit begins the next frame (R3). -/
def State.afterFrame (s : State) : State :=
  { s with framer := { s.framer with rxBits := [], bitPos := s.framer.alignPos } }

/-- A frame's slots as they reach the two parsers: the data slots in order, then the management slot (R7; log 14). -/
def State.takeSlots (s : State) (octets : List Octet) : State :=
  (((octets.drop 2).take 28).foldl State.feedDown s).feedCommand (octets.getD 30 0x00)

/-- A state whose reply wait on a line has ended with its response: the response marking and the wait are gone, a
DRAINING transmitter without work is OFF, and the channel is told ANSWERED (R67, R121, R125, R148). -/
def State.responseOver (s : State) (n : LineNo) (w : WaitName) : State :=
  (s.modLine n fun l => Line.settleDrain { l with respMark := none, wait := none }).pollEnd w.channel .answered

/-- No line waits for storage. -/
def State.NoneStarved (s : State) : Prop := ∀ n : LineNo, (s.line n).starved = false

/-- The answer to a command: its tag and code, a status and results (R158). -/
def Command.answer (c : Command) (st : Status) (results : List Octet) : Response :=
  { tag := c.tag, code := c.code, status := st, results := results, governs := .nothing }

/-- The state when the command at the head of the Command Input Buffer begins to execute: it has left the buffer (R155). -/
def State.dequeued (s : State) (rest : List Command) : State := { s with mgmt := { s.mgmt with cib := rest } }

/-- The end of an execution: the answer joins the Response Queue, and the Supervision Timer is loaded with the interval
in force, or stopped when it is 0 (R155, R158, R173). -/
def State.replied (s : State) (r : Response) : State :=
  { s with
    mgmt := { s.mgmt with responses := s.mgmt.responses ++ [r] }
    sup :=
      { s.sup with timer := if s.sup.interval = 0 then none else some (1000 * s.sup.interval.toNat) } }

/-- A state whose head command has been executed with no effect on anything else: the command has left the buffer and
is answered. -/
def State.answered (s : State) (rest : List Command) (r : Response) : State := (s.dequeued rest).replied r

end Sys2Proof.Machine
end

