-- ==== Sys2Proof/Certificates/Slice0/Obligations.lean ====
section
/-! DEFINITION. The statements about the BCT-8 that are to be proved. -/

section Statements

open Sys2Proof Sys2Proof.Machine

/-! ### The machine -/

/-- A step takes the command at the front of the queue and is exec of it on the state with the queue's rest. -/
def Obligations.StepRunsTheFrontCommand : Prop :=
  ∀ (c : Instr) (cs : List Instr) (s : State), s.pending = c :: cs → step s = exec c { s with pending := cs }

/-- A step on an empty queue. While the part is held in reset or in its Quiet state nothing changes. Otherwise an
expiry that is due takes place: the lowest line's reply timeout, then the lowest channel's interval, then the
Supervision Timer's. When none is due a millisecond passes: every reply timer, every interval counter and the
Supervision Timer count down by one, and nothing else changes. The model's choice (log 4), and so is that no grant is
made and no command executed on an empty queue, though a channel be eligible or a command due (log 30). -/
def Obligations.IdleStepCountsAMillisecond : Prop :=
  ∀ s : State,
    s.pending = [] →
      let reply : LineNo → Prop := fun n => ∃ w, (s.line n).wait = some w ∧ w.begun = false ∧ w.timer = some 0
      let interval : ChannelNo → Prop := fun c =>
        (s.chan c).armed = true ∧ (s.chan c).settings.trigger = .timer ∧ (s.chan c).counter = some 0
      ((s.held ≠ .no ∨ s.quiet.flag = true) → step s = .next s) ∧
        (s.held = .no → s.quiet.flag = false →
          (∀ n, reply n → (∀ m < n, ¬reply m) → step s = exec (.replyTimeout n) s) ∧
            ((∀ n, ¬reply n) →
              (∀ c, interval c → (∀ d < c, ¬interval d) → step s = exec (.pollIntervalExpiry c) s) ∧
                ((∀ c, ¬interval c) →
                  (s.sup.timer = some 0 → step s = exec .supervisionExpiry s) ∧
                    (s.sup.timer ≠ some 0 →
                      step s =
                        .next
                          { (s.mapLines fun l =>
                                { l with
                                  wait :=
                                    l.wait.map fun w =>
                                      { w with timer := w.timer.map fun ms => ms - 1 } }).mapChans fun c =>
                              { c with counter := c.counter.map fun ms => ms - 1 } with
                            sup := { s.sup with timer := s.sup.timer.map fun ms => ms - 1 } }))))

/-- The values the manual gives for the end of a power-on reset (R20, R40, R50, R75, R89, R107, R129, R150, R168,
R181). Values the manual does not give (log 25) are left out. -/
def Obligations.ResetLeavesTheTablesValues : Prop :=
  State.reset.framer.rx = .search ∧ State.reset.framer.goodCount = 0 ∧ State.reset.framer.badCount = 0 ∧
    State.reset.framer.expected = 0 ∧ State.reset.framer.farAlarm = true ∧
    State.reset.framer.transmitEnable = false ∧ State.reset.framer.running = false ∧
    State.reset.framer.txNumber = 0 ∧
    [State.reset.framer.badFrames, State.reset.framer.alignLosses, State.reset.framer.slips,
      State.reset.framer.restarts] = [0, 0, 0, 0] ∧
    (∀ n : LineNo,
      (State.reset.line n).params.octets = [0x03, 0x08, 0x00, 0x01, 0x00, 3, 64, 32, 20, 0x00, 0x00] ∧
        (State.reset.line n).rx = .off ∧ (State.reset.line n).stage = [] ∧
        (State.reset.line n).overrunPending = false ∧ (State.reset.line n).selection = none ∧
        (State.reset.line n).openRec = none ∧ (State.reset.line n).gapTimer = none ∧
        (State.reset.line n).cont = none ∧ (State.reset.line n).respMark = none ∧
        (State.reset.line n).starved = false ∧ (State.reset.line n).lossWhileStarved = false ∧
        (State.reset.line n).upQueue = [] ∧ (State.reset.line n).transmitter = .off ∧
        (State.reset.line n).sending = false ∧ (State.reset.line n).downQueue = [] ∧
        (State.reset.line n).wait = none ∧ (State.reset.line n).lastExpired = none ∧
        (State.reset.line n).quietHold = false ∧ (State.reset.line n).pos = .idle ∧
        (State.reset.line n).counters.values = List.replicate 11 0) ∧
    (∀ k : Octet, (State.reset.station k).octets = [0, 0, 0, 0, 0, 0]) ∧
    State.reset.buffer.freeBlocks.length = 512 ∧ State.reset.buffer.freeDescs.length = 192 ∧
    State.reset.buffer.wakePtr = 7 ∧
    (∀ (b : Fin 2) (k : SlotNo), (State.reset.slots.banks[b])[k] = { owner := none, frames := 0 }) ∧
    State.reset.slots.active = 0 ∧ State.reset.slots.swapPending = false ∧
    State.reset.serializer.mgmtPos = .idle ∧ State.reset.serializer.lineHold = .none ∧
    State.reset.parser.parse = .waitRestart ∧ State.reset.parser.discards.values = List.replicate 8 0 ∧
    (∀ k : EntryNo, (State.reset.poll.script[k]).octets = [0, 0, 1, 0]) ∧
    (∀ c : ChannelNo,
      (State.reset.chan c).octets = [0, 0, 0, 0, 0, 0, 1, 0, 0, 0, 0, 0, 0, 1, 0, 0, 0, 0, 0, 0, 0]) ∧
    State.reset.poll.mode = .fixed ∧ State.reset.poll.pointer = 7 ∧ State.reset.mgmt.parse = .waitRestart ∧
    State.reset.mgmt.cib = [] ∧ State.reset.mgmt.exec = .ready ∧ State.reset.mgmt.responses = [] ∧
    (∀ c : Condition, State.reset.mgmt.events.count c = if c = .restarted then some 1 else none) ∧
    State.reset.mgmt.events.cause = .power ∧ State.reset.mgmt.accepted = 0 ∧ State.reset.mgmt.discarded = 0 ∧
    State.reset.quiet.flag = false ∧ State.reset.quiet.wakeOnTrunk = false ∧
    State.reset.quiet.lastCause = .power ∧ State.reset.quiet.lastWake = none ∧ State.reset.sup.interval = 0 ∧
    State.reset.sup.action = .hold ∧ State.reset.sup.timer = none

/-! ### The upstream frame -/

/-- A frame that begins carries the transmit frame number, and its header's indicators are those of the state at that
moment; a swap pending at a frame 0 exchanges the banks before the header; only the framer's transmit side, the slot
map and the streams' positions change (R1, R2, R94). That the number advances with the frame's start, and sentNumber
keeps the number of the frame being sent, is the model's reading (log 7), after the sentence of
95_what_each_step_holds.md that UPSTREAM_FRAME_START advances the transmit frame number. At a frame numbered 0 that
finds the streams STOPPED and transmit-enable holding, the streams become RUNNING and every held line stream IDLE; in
any other frame the stream state is unchanged, and the held line streams become IDLE only when the hold's releasing
response has ended (R14, R103, R105). -/
def Obligations.FrameStart : Prop :=
  (∀ s : State,
      s.held = .no → s.framer.rx ≠ .quiet → (s.framer.txOctets = [] ∨ s.framer.txOctets.length = 31) →
        ∃ (t : State) (h : Octet),
          exec .upstreamFrameStart s = .next t ∧ t.framer.txOctets = [0xD3, h] ∧
            headerNumber h = s.framer.txNumber ∧ h.getLsbD 7 = s.mgmt.events.attention ∧
            (headerRemoteAlarm h = true ↔
              s.framer.rx = .search ∨ s.framer.rx = .confirm ∨ s.framer.rx = .aligned) ∧
            (h.getLsbD 5 = true ↔ t.slots.active = 1) ∧
            (headerRestart h = true ↔
              s.framer.txNumber = 0 ∧ s.framer.running = false ∧ s.framer.rx = .operational ∧
                s.framer.farAlarm = false) ∧
            t.framer.sentNumber = s.framer.txNumber ∧ t.framer.txNumber = s.framer.txNumber + 1 ∧
            t.slots =
              (if s.framer.txNumber = 0 ∧ s.slots.swapPending = true then
                { s.slots with active := s.slots.active + 1, swapPending := false }
              else s.slots) ∧
            (∀ n : LineNo, { t.line n with pos := (s.line n).pos } = s.line n) ∧
            t.serializer.mgmtPos = s.serializer.mgmtPos ∧
            t =
              { s with
                framer :=
                  { s.framer with
                    running := t.framer.running, txNumber := t.framer.txNumber
                    sentNumber := t.framer.sentNumber, txOctets := t.framer.txOctets
                    lastFrame := t.framer.lastFrame }
                lines := t.lines
                slots := t.slots
                serializer := t.serializer }) ∧
    (∀ s : State,
      s.held = .no → s.framer.rx ≠ .quiet → (s.framer.txOctets = [] ∨ s.framer.txOctets.length = 31) →
        ∃ t : State,
          exec .upstreamFrameStart s = .next t ∧
            (if s.framer.txNumber = 0 ∧ s.framer.running = false ∧ s.framer.transmitEnable = true then
              t.framer.running = true ∧ t.serializer.lineHold = .none ∧
                ∀ n : LineNo,
                  (t.line n).pos = if (s.line n).pos = .restartPending then .idle else (s.line n).pos
            else if s.serializer.lineHold = .ending then
              t.framer.running = s.framer.running ∧ t.serializer.lineHold = .none ∧
                ∀ n : LineNo,
                  (t.line n).pos = if (s.line n).pos = .restartPending then .idle else (s.line n).pos
            else
              t.framer.running = s.framer.running ∧ t.serializer.lineHold = s.serializer.lineHold ∧
                ∀ n : LineNo, (t.line n).pos = (s.line n).pos))

/-- The check octet makes every frame good: the CRC-8 over octets 1 to 31 is 00h, and a frame that began with the sync
octet is a good frame with it (R1, R3, R183). That the next UPSTREAM_FRAME_START appends the check octet and keeps the
frame in lastFrame is the model's choice (log 8). -/
def Obligations.CheckOctetMakesTheFrameGood : Prop :=
  (∀ octets : List Octet, crc8 (octets ++ [crc8 octets]) = 0x00) ∧
    ∀ s : State,
      s.held = .no → s.framer.rx ≠ .quiet → s.framer.txOctets.length = 31 →
        s.framer.txOctets.head? = some 0xD3 →
          ∃ t : State,
            exec .upstreamFrameStart s = .next t ∧
              t.framer.lastFrame = s.framer.txOctets ++ [crc8 (s.framer.txOctets.drop 1)] ∧
              goodFrame t.framer.lastFrame = true

/-- At data slot `k` of the frame in progress: fill while the streams are STOPPED or when the slot belongs to no line;
otherwise the owner's stream sends the first octet of its head record, the octet at its offset, or fill; the record
whose last octet is sent leaves the queue and is released (R90, R95, R96, R97). -/
def Obligations.DataSlotSendsTheOwnersOctet : Prop :=
  ∀ (s : State) (k : SlotNo),
    s.framer.txOctets.length = k.val + 2 →
      let sent : Octet → State := fun o =>
        { s with framer := { s.framer with txOctets := s.framer.txOctets ++ [o] } }
      let entry := (s.slots.banks[s.slots.active])[k]
      (s.framer.running = false → exec .upstreamDataSlot s = .next (sent 0x00)) ∧
        (entry.owner = none → exec .upstreamDataSlot s = .next (sent 0x00)) ∧
        (entry.frames.getLsbD s.framer.sentNumber.toNat = false →
          exec .upstreamDataSlot s = .next (sent 0x00)) ∧
        ∀ n : LineNo,
          s.framer.running = true → entry.owner = some n →
            entry.frames.getLsbD s.framer.sentNumber.toNat = true →
              ((s.line n).pos = .restartPending → exec .upstreamDataSlot s = .next (sent 0x00)) ∧
                ((s.line n).pos = .idle → (s.line n).upQueue = [] →
                  exec .upstreamDataSlot s = .next (sent 0x00)) ∧
                ∀ (r : UpRecord) (rest : List UpRecord),
                  (s.line n).upQueue = r :: rest →
                    let octets := r.header ++ s.buffer.payload r.chain r.length
                    ((s.line n).pos = .idle →
                        exec .upstreamDataSlot s =
                          .next ((sent r.kind.octet).modLine n fun l => { l with pos := .sending 1 })) ∧
                      ∀ j : Nat,
                        (s.line n).pos = .sending j →
                          (j + 1 < octets.length →
                              exec .upstreamDataSlot s =
                                .next
                                  ((sent (octets.getD j 0x00)).modLine n fun l =>
                                    { l with pos := .sending (j + 1) })) ∧
                            (j + 1 = octets.length →
                              exec .upstreamDataSlot s =
                                .next
                                  (((sent (octets.getD j 0x00)).modLine n fun l =>
                                        { l with pos := .idle, upQueue := rest }).release
                                    r.chain r.desc))

/-- At the management slot: fill while the streams are STOPPED or no response waits; otherwise the head response's
octets in order, its first 01h; the last takes the response out of the queue (R100, R101). -/
def Obligations.ManagementSlotSendsTheHeadResponse : Prop :=
  ∀ s : State,
    s.framer.txOctets.length = 30 →
      let sent : Octet → State := fun o =>
        { s with framer := { s.framer with txOctets := s.framer.txOctets ++ [o] } }
      (s.framer.running = false → exec .managementSlot s = .next (sent 0x00)) ∧
        (s.mgmt.responses = [] → exec .managementSlot s = .next (sent 0x00)) ∧
        ∀ (r : Response) (rest : List Response),
          s.framer.running = true → s.mgmt.responses = r :: rest →
            (s.serializer.mgmtPos = .idle →
                exec .managementSlot s =
                  .next { sent 0x01 with serializer := { s.serializer with mgmtPos := .sending 1 } }) ∧
              ∀ j : Nat,
                s.serializer.mgmtPos = .sending j →
                  (j + 1 < r.octets.length →
                      exec .managementSlot s =
                        .next
                          { sent (r.octets.getD j 0x00) with
                            serializer := { s.serializer with mgmtPos := .sending (j + 1) } }) ∧
                    (j + 1 = r.octets.length → r.governs = .nothing →
                      exec .managementSlot s =
                        .next
                          { sent (r.octets.getD j 0x00) with
                            mgmt := { s.mgmt with responses := rest }
                            serializer := { s.serializer with mgmtPos := .idle } })

/-- The end of a response that governs an event brings it about: a DEVICE-scope reset of the whole part, with the
frame going on to its check octet; Quiet entry's first half, QUIET with the streams STOPPED and both parsers in
WAIT_RESTART; or the mark that the hold of a LINES-scope reset ends at the next frame (R101, R105, R171, R177). Of the
state after the reset: that the framer takes its reset values while its frame goes on is the model's reading (log 27);
that the one-bit rest of every line is over is its reading too (log 15), and its choices are the order of the free
lists (log 9), the Shared Buffer's octets, which are kept (log 10), the values of the receive bookkeeping, of highWait
and of the levels of LnTX that the manual does not give (log 25), and the frame last sent whole, which is kept (log
8). -/
def Obligations.ResponseEndBringsItsEvent : Prop :=
  ∀ (s : State) (r : Response) (rest : List Response) (j : Nat),
    s.framer.txOctets.length = 30 → s.framer.running = true → s.mgmt.responses = r :: rest →
      s.serializer.mgmtPos = .sending j → j + 1 = r.octets.length →
        let octets := s.framer.txOctets ++ [r.octets.getD j 0x00]
        (r.governs = .deviceReset →
            exec .managementSlot s =
              .next ({ s with framer := { s.framer with txOctets := octets } }.afterFullReset .command)) ∧
          (r.governs = .lineRelease →
            exec .managementSlot s =
              .next
                { s with
                  framer := { s.framer with txOctets := octets }
                  mgmt := { s.mgmt with responses := rest }
                  serializer :=
                    { mgmtPos := .idle
                      lineHold :=
                        if s.serializer.lineHold = .inForce then .ending else s.serializer.lineHold } }) ∧
          (r.governs = .quietEntry →
            ∃ t : State,
              exec .managementSlot s = .next t ∧ t.framer.rx = .quiet ∧ t.framer.running = false ∧
                t.framer.txOctets = octets ∧ t.parser.parse = .waitRestart ∧ t.mgmt.parse = .waitRestart ∧
                t.mgmt.responses = rest ∧ t.serializer.mgmtPos = .idle ∧ t.quiet = s.quiet ∧
                ∀ n : LineNo, ∀ k : Nat, (t.line n).pos ≠ .sending k)

/-- Quiet entry: the QUIET flag is set, the frame is completed, every receiver that is not OFF is in WATCH, and line by
line the stage is taken, the open record closed with no flag, the continuation marking cleared and the gap timer stopped
(R11, R38, R64, R177). Each upstream queue keeps its records, followed by those that closed: with an empty stage, the
open record as it stands. With no reply wait and no response in progress, as R176 ensures, the channels are unchanged;
queues behind the Record Assemblers are kept. That the check octet and lastFrame come with this step is the model's
choice (log 8), and so is the order of the lines, 0 to 7 (log 13). -/
def Obligations.QuietEntryClosesEveryLine : Prop :=
  ∀ s : State,
    s.framer.rx = .quiet → s.quiet.flag = false → s.framer.txOctets.length = 31 →
      ∃ t : State,
        exec .quietEntry s = .next t ∧
          t =
            ([0, 1, 2, 3, 4, 5, 6, 7] : List LineNo).foldl
              (fun u n =>
                ((((u.drain n).closeRecord n .plain).clearCont n).modLine n fun l => { l with gapTimer := none }))
              ({ s with
                  framer :=
                    { s.framer with
                      txOctets := []
                      lastFrame := s.framer.txOctets ++ [crc8 (s.framer.txOctets.drop 1)] }
                  quiet := { s.quiet with flag := true } }.mapLines fun l =>
                if l.rx = RxState.off then l else { l with rx := RxState.watch, highWait := none }) ∧
          t.quiet = { s.quiet with flag := true } ∧ t.framer.txOctets = [] ∧
          t.framer.lastFrame = s.framer.txOctets ++ [crc8 (s.framer.txOctets.drop 1)] ∧
          (∀ n : LineNo,
            (t.line n).rx = (if (s.line n).rx = .off then .off else .watch) ∧ (t.line n).openRec = none ∧
              (t.line n).gapTimer = none ∧ (t.line n).cont = none ∧
              (∃ closed : List UpRecord,
                (t.line n).upQueue = (s.line n).upQueue ++ closed ∧
                  ((s.line n).stage = [] → closed = (s.line n).openRec.toList)) ∧
              ((s.line n).starved = true → (t.line n).stage = (s.line n).stage ∧ (t.line n).starved = true) ∧
              (t.line n).downQueue = (s.line n).downQueue ∧ (t.line n).quietHold = (s.line n).quietHold) ∧
          ((∀ n : LineNo, (s.line n).wait = none ∧ (s.line n).respMark = none) → t.poll = s.poll) ∧
          t.mgmt.cib = s.mgmt.cib ∧ t.mgmt.responses = s.mgmt.responses ∧ t.mgmt.exec = s.mgmt.exec ∧
          t.stations = s.stations ∧ t.slots = s.slots ∧ t.poll.script = s.poll.script ∧ t.sup = s.sup

/-! ### Downstream frames and the two parsers -/

/-- Alignment. In SEARCH every open candidate takes each bit, and the last eight bits received open a candidate when
they equal D3h; the oldest is judged with its 256th bit: a good one sets the aligned position, enters CONFIRM with a
count of 1 and drops every other, and a bad one is dropped alone (R3, R4). From an empty hunt the bits of a good frame
enter CONFIRM. In CONFIRM a good frame raises the count and the third enters ALIGNED, a bad one begins a hunt (R5).
ALIGNED waits for a good frame 0: a good frame with another number clears the bad count and updates the far-end alarm
flag; a bad frame is counted, and the fourth in a row is an alignment loss; a good frame 0 enters OPERATIONAL and is
handed on, its restart event first when it carries one (R6, R7, R12, R16, R19). Outside SEARCH bits that do not end a
frame are kept for it, and QUIET takes none (R3, R11); bits may come in steps of any length, singly or as whole octets
(log 6). That ALIGNED and OPERATIONAL keep the good-frame count and SEARCH the bad count is the model's choice (log
25). -/
def Obligations.AlignmentIsGained : Prop :=
  (∀ (s t : State) (xs ys : List Bool),
      exec (.downstreamFrameJudged xs []) s = .next t →
        exec (.downstreamFrameJudged (xs ++ ys) []) s = exec (.downstreamFrameJudged ys []) t) ∧
    (∀ (s : State) (bits : List Bool) (octets : List Octet),
      exec (.downstreamFrameJudged bits octets) s =
        exec (.downstreamFrameJudged (bits ++ octets.flatMap octetBits) []) s) ∧
    (∀ (s : State) (b : Bool),
      s.held = .no → s.framer.rx = .search →
        let last := (s.framer.recent ++ [b]).drop (s.framer.recent.length - 7)
        let opened :=
          s.framer.candidates.map (fun c => c ++ [b]) ++ if last = octetBits 0xD3 then [last] else []
        let t : State :=
          { s with
            framer := { s.framer with bitPos := s.framer.bitPos + 1, recent := last, candidates := opened } }
        (∀ (c : List Bool) (rest : List (List Bool)),
            opened = c :: rest → c.length = 256 →
              exec (.downstreamFrameJudged [b] []) s =
                .next
                  (if goodFrame (octetsOf c) = true then
                    { s with
                      framer :=
                        { s.framer with
                          rx := .confirm, goodCount := 1, bitPos := s.framer.bitPos + 1
                          alignPos := s.framer.bitPos + 1, recent := [], candidates := [], rxBits := [] } }
                  else { t with framer := { t.framer with candidates := rest } })) ∧
          ((∀ c ∈ opened.head?, c.length ≠ 256) → exec (.downstreamFrameJudged [b] []) s = .next t)) ∧
    (∀ (s : State) (octets : List Octet),
      s.held = .no → s.framer.rx = .search → s.framer.recent = [] → s.framer.candidates = [] →
        goodFrame octets = true →
          exec (.downstreamFrameJudged [] octets) s =
            .next
              { s with
                framer :=
                  { s.framer with
                    rx := .confirm, goodCount := 1, alignPos := s.framer.bitPos, recent := [], candidates := []
                    rxBits := [] } }) ∧
    (∀ (s : State) (bits : List Bool),
      s.held = .no →
        (s.framer.rx = .quiet → exec (.downstreamFrameJudged bits []) s = .next s) ∧
          ((s.framer.rx = .confirm ∨ s.framer.rx = .aligned ∨ s.framer.rx = .operational) →
            (∀ k : Nat, 1 ≤ k → k ≤ bits.length → s.framer.bitPos + Fin.ofNat 256 k ≠ s.framer.alignPos) →
              exec (.downstreamFrameJudged bits []) s =
                .next
                  { s with
                    framer :=
                      { s.framer with
                        rxBits := s.framer.rxBits ++ bits
                        bitPos := s.framer.bitPos + Fin.ofNat 256 bits.length } })) ∧
    (∀ (s : State) (bits : List Bool) (octets : List Octet),
      s.held = .no → s.framer.rx = .confirm → s.framer.Completes bits octets →
        let u := s.afterFrame
        (goodFrame octets = true →
            exec (.downstreamFrameJudged bits []) s =
              .next
                { u with
                  framer :=
                    if 3 ≤ u.framer.goodCount + 1 then
                      { u.framer with rx := .aligned, goodCount := u.framer.goodCount + 1, badCount := 0 }
                    else { u.framer with goodCount := u.framer.goodCount + 1 } }) ∧
          (goodFrame octets = false →
            exec (.downstreamFrameJudged bits []) s =
              .next
                { u with framer := { u.framer with rx := .search, goodCount := 0, recent := [], candidates := [] } })) ∧
    (∀ (s : State) (bits : List Bool) (octets : List Octet),
      s.held = .no → s.framer.rx = .aligned → s.framer.Completes bits octets →
        let u := s.afterFrame
        (goodFrame octets = true → headerNumber (frameOctet octets 1) ≠ 0 →
            exec (.downstreamFrameJudged bits []) s =
              .next
                { u with
                  framer :=
                    { u.framer with badCount := 0, farAlarm := headerRemoteAlarm (frameOctet octets 1) } }) ∧
          (goodFrame octets = false →
            let f : Framer :=
              { u.framer with badFrames := satInc u.framer.badFrames, badCount := u.framer.badCount + 1 }
            exec (.downstreamFrameJudged bits []) s =
              .next
                (if 4 ≤ u.framer.badCount + 1 then
                  { u with
                    framer :=
                      { f with
                        rx := .search, recent := [], candidates := []
                        alignLosses := satInc u.framer.alignLosses } }.raise .trunk
                else { u with framer := f })) ∧
          (goodFrame octets = true → headerNumber (frameOctet octets 1) = 0 →
            let f : Framer :=
              { u.framer with
                rx := .operational, expected := 1, badCount := 0
                farAlarm := headerRemoteAlarm (frameOctet octets 1) }
            let v : State := ({ u with framer := f }.interruptDown .waitRestart).interruptCommand .waitRestart
            let w : State :=
              ({ v with framer := { f with restarts := satInc f.restarts } }.interruptDown .between).interruptCommand
                .between
            exec (.downstreamFrameJudged bits []) s =
                .next ((if headerRestart (frameOctet octets 1) = true then w else v).takeSlots octets) ∧
              ∀ t : State,
                exec (.downstreamFrameJudged bits []) s = .next t →
                  t.framer =
                      { f with
                        restarts :=
                          if headerRestart (frameOctet octets 1) = true then satInc f.restarts else f.restarts } ∧
                    (headerRestart (frameOctet octets 1) = false →
                      t.parser.parse = .waitRestart ∧ t.mgmt.parse = .waitRestart)))

/-- A bad frame in OPERATIONAL reaches neither parser: the bad counts and the expected number rise, the far-end alarm
flag stays, both parsers are interrupted into WAIT_RESTART, where the record or command under construction is
discarded (StoppedStreamsAndCutRecords), and nothing else takes place; the fourth in a row is an alignment loss, which
also begins a hunt, is counted, raises TRUNK and stops the streams (R8, R10, R13, R15, R19). A good frame in
OPERATIONAL with another number than the expected one is a cycle slip and reaches neither parser either: it is
counted, TRUNK is raised, ALIGNED is entered with the bad count at 0 and the far-end alarm flag updated, both parsers
are interrupted into WAIT_RESTART in the same way and RUNNING streams are STOPPED, and nothing else takes place (R9,
R10, R13, R15, R19). That the good-frame count is kept in both, and the bad count at an alignment loss, is the model's
choice (log 25). -/
def Obligations.BadFrameAndCycleSlip : Prop :=
  (∀ (s : State) (bits : List Bool) (octets : List Octet),
      s.held = .no → s.framer.rx = .operational → s.framer.Completes bits octets → goodFrame octets = false →
        let u := s.afterFrame
        let v : State :=
          ({ u with
                framer :=
                  { u.framer with
                    badFrames := satInc s.framer.badFrames, badCount := s.framer.badCount + 1
                    expected := s.framer.expected + 1 } }.interruptDown
              .waitRestart).interruptCommand
            .waitRestart
        let lost : State :=
          ({ v with
                framer :=
                  { v.framer with
                    rx := .search, recent := [], candidates := [], rxBits := []
                    alignLosses := satInc s.framer.alignLosses } }.raise
              .trunk).checkStreams
        ∃ t : State,
          exec (.downstreamFrameJudged bits []) s = .next t ∧
            t = (if 4 ≤ s.framer.badCount + 1 then lost else v) ∧ t.parser.parse = .waitRestart ∧
            t.mgmt.parse = .waitRestart ∧
            (s.framer.badCount < 3 →
              t.framer =
                { u.framer with
                  badFrames := satInc s.framer.badFrames, badCount := s.framer.badCount + 1
                  expected := s.framer.expected + 1 }) ∧
            (3 ≤ s.framer.badCount →
              t.framer =
                { u.framer with
                  rx := .search, recent := [], candidates := [], badFrames := satInc s.framer.badFrames
                  badCount := s.framer.badCount + 1, expected := s.framer.expected + 1
                  alignLosses := satInc s.framer.alignLosses, running := false } ∧
                t.mgmt.events.count .trunk = raisedCount (s.mgmt.events.count .trunk)) ∧
            t.mgmt.cib = s.mgmt.cib ∧ t.mgmt.responses = s.mgmt.responses ∧ t.stations = s.stations ∧
            t.slots = s.slots ∧ t.sup = s.sup ∧ t.quiet = s.quiet) ∧
    (∀ (s : State) (bits : List Bool) (octets : List Octet),
      s.held = .no → s.framer.rx = .operational → s.framer.Completes bits octets → goodFrame octets = true →
        headerNumber (frameOctet octets 1) ≠ s.framer.expected →
          let u := s.afterFrame
          let slipped : State :=
            { u with
              framer :=
                { u.framer with
                  rx := .aligned, badCount := 0, farAlarm := headerRemoteAlarm (frameOctet octets 1)
                  slips := satInc s.framer.slips } }.raise
              .trunk
          ∃ t : State,
            exec (.downstreamFrameJudged bits []) s = .next t ∧
              t = ((slipped.interruptDown .waitRestart).interruptCommand .waitRestart).checkStreams ∧
              t.framer =
                { u.framer with
                  rx := .aligned, badCount := 0, farAlarm := headerRemoteAlarm (frameOctet octets 1)
                  slips := satInc s.framer.slips, running := false } ∧
              t.mgmt.events.count .trunk = raisedCount (s.mgmt.events.count .trunk) ∧
              t.parser.parse = .waitRestart ∧ t.mgmt.parse = .waitRestart ∧
              (s.framer.running = true → ∀ (n : LineNo) (k : Nat), (t.line n).pos ≠ .sending k) ∧
              t.mgmt.cib = s.mgmt.cib ∧ t.mgmt.responses = s.mgmt.responses ∧ t.stations = s.stations ∧
              t.slots = s.slots ∧ t.sup = s.sup ∧ t.quiet = s.quiet)

/-- A good frame in OPERATIONAL with the expected number is taken in: the expected number advances, the bad count is 0,
the far-end alarm flag is updated, and the slots reach the parsers: the 28 data slots in order, and the management slot.
A frame with RESTART = 1 is counted and brings both parsers a restart event first: a record or command under
construction is discarded as at any interruption, and both parsers are in BETWEEN (R7, R13, R16, R17). -/
def Obligations.ExpectedFrameIsDelivered : Prop :=
  ∀ (s : State) (bits : List Bool) (octets : List Octet),
    s.held = .no → s.framer.rx = .operational → s.framer.Completes bits octets → goodFrame octets = true →
      headerNumber (frameOctet octets 1) = s.framer.expected →
        let u : State :=
          { s.afterFrame with
            framer :=
              { s.afterFrame.framer with
                badCount := 0, farAlarm := headerRemoteAlarm (frameOctet octets 1)
                expected := s.framer.expected + 1 } }.checkStreams
        let v : State :=
          ({ u with framer := { u.framer with restarts := satInc u.framer.restarts } }.interruptDown
              .between).interruptCommand
            .between
        (headerRestart (frameOctet octets 1) = false →
            exec (.downstreamFrameJudged bits []) s = .next (u.takeSlots octets)) ∧
          (headerRestart (frameOctet octets 1) = true →
            exec (.downstreamFrameJudged bits []) s = .next (v.takeSlots octets) ∧ v.parser.parse = .between ∧
              v.mgmt.parse = .between ∧ v.framer = { u.framer with restarts := satInc u.framer.restarts })

/-- When transmit-enable does not hold, RUNNING streams become STOPPED: every stream that was SENDING is IDLE, with
its record or response still at the head of its queue, and nothing else changes (R13, R102). A record or command under
construction that the framer cuts is discarded: INTERRUPTED and DOWN_DISCARD with its storage released, or a discarded
command with MGMT_DISCARD; parsers between records, skipping or waiting discard nothing (R15, R83, R114, R115, R154). -/
def Obligations.StoppedStreamsAndCutRecords : Prop :=
  (∀ s : State,
      (s.framer.running = false → s.checkStreams = s) ∧ (s.framer.transmitEnable = true → s.checkStreams = s) ∧
        (s.framer.running = true → s.framer.transmitEnable = false →
          s.checkStreams =
            { s.mapLines fun l => { l with pos := if l.pos = .restartPending then .restartPending else .idle } with
              framer := { s.framer with running := false }
              serializer :=
                { s.serializer with
                  mgmtPos := if s.serializer.mgmtPos = .restartPending then .restartPending else .idle } })) ∧
    (∀ (s : State) (next : DownParse) (next' : CmdParse),
      (∀ (k : DownKind) (l : Option Nat),
          s.parser.parse = .header k l →
            s.interruptDown next =
              { s with
                parser :=
                  { parse := next
                    discards :=
                      { s.parser.discards with interrupted := satInc s.parser.discards.interrupted } } }.raise
                .downDiscard) ∧
        (∀ (r : DownRecord) (k : Nat),
          s.parser.parse = .payload r k →
            s.interruptDown next =
              ({ s with
                    parser :=
                      { parse := next
                        discards :=
                          { s.parser.discards with
                            interrupted := satInc s.parser.discards.interrupted } } }.raise
                    .downDiscard).release
                r.chain r.desc) ∧
        (s.parser.parse = .waitRestart ∨ s.parser.parse = .between ∨ (∃ k, s.parser.parse = .skip k) →
          s.interruptDown next = { s with parser := { s.parser with parse := next } }) ∧
        (s.mgmt.parse = .waitRestart ∨ s.mgmt.parse = .between →
          s.interruptCommand next' = { s with mgmt := { s.mgmt with parse := next' } }) ∧
        (s.mgmt.parse ≠ .waitRestart → s.mgmt.parse ≠ .between →
          s.interruptCommand next' =
            { s with
              mgmt :=
                { s.mgmt with parse := next', discarded := satInc s.mgmt.discarded } }.raise
              .mgmtDiscard))

/-- Between records the Downstream Parser consumes fill, begins a record at one of the three kinds, and discards any
other record BAD_KIND at its kind octet; the skip that follows takes the record's length, its station octet and as
many payload octets, and leaves the parser between records with nothing else changed (R109, R113, R115). -/
def Obligations.ParserReadsKindsAndSkips : Prop :=
  ∀ s : State,
    s.parser.parse = .between →
      s.feedDown 0x00 = s ∧ s.feedDown 0x41 = s.setParse (.header .send none) ∧
        s.feedDown 0x42 = s.setParse (.header .sendReply none) ∧
        s.feedDown 0x43 = s.setParse (.header .sendBreak none) ∧
        ∀ (kind len : Octet) (rest : List Octet),
          kind ∉ ([0x00, 0x41, 0x42, 0x43] : List Octet) → rest.length = len.toNat + 1 →
            let discarded : DownParse → State := fun p =>
              { s with
                parser :=
                  { parse := p
                    discards :=
                      { s.parser.discards with badKind := satInc s.parser.discards.badKind } } }.raise
                .downDiscard
            s.feedDown kind = discarded (.skip none) ∧
              (kind :: len :: rest).foldl State.feedDown s = discarded .between

/-- A header that is complete is judged by six checks in order: BAD_LENGTH, UNKNOWN_STATION, DOWN_DISABLED, LINE_OFF,
QUEUE_FULL, NO_BUFFER; a record refused is skipped, and a record that passes takes a descriptor and its resolution
(R42, R108, R110, R115). At its append a record is judged again: LINE_OFF or QUEUE_FULL discard it and release its
storage, and otherwise it joins the tail of its line's queue, where the transmitter may begin it (R112, R116, R117). -/
def Obligations.DownstreamRecordsAreJudged : Prop :=
  (∀ (s : State) (k : DownKind) (len : Nat) (station : Octet),
      s.parser.parse = .header k (some len) →
        let e := s.station station
        let after : DownParse := if len = 0 then .between else .skip (some len)
        let discard : DiscardCounters → State := fun d =>
          { s with parser := { parse := after, discards := d } }.raise .downDiscard
        let d := s.parser.discards
        if len = 0 ∧ k ≠ .sendBreak then
          s.feedDown station = discard { d with badLength := satInc d.badLength }
        else if e.valid = false then
          s.feedDown station = discard { d with unknownStation := satInc d.unknownStation }
        else if e.down = false then
          s.feedDown station = discard { d with downDisabled := satInc d.downDisabled }
        else if (s.line e.line).txMode ≠ .on then
          s.feedDown station = discard { d with lineOff := satInc d.lineOff }
        else if 16 ≤ (s.line e.line).downQueue.length then
          s.feedDown station = discard { d with queueFull := satInc d.queueFull }
        else
          match s.buffer.freeDescs with
          | [] => s.feedDown station = discard { d with noBuffer := satInc d.noBuffer }
          | i :: rest =>
            let r : DownRecord :=
              { desc := i, chain := [], origin := .headEnd, brk := k == .sendBreak
                reply :=
                  match k with
                  | .send => e.replyDefault
                  | .sendReply => true
                  | .sendBreak => false
                station := station, line := e.line, localAddr := e.localAddr, channel := 0xFF, length := len }
            let t : State := { s with buffer := { s.buffer with freeDescs := rest } }
            (0 < len → s.feedDown station = t.setParse (.payload r 0)) ∧
              (len = 0 → s.feedDown station = t.appendDown r)) ∧
    (∀ (s : State) (r : DownRecord),
      ((s.line r.line).txMode ≠ .on →
          s.appendDown r =
            ({ s with
                  parser :=
                    { parse := .between
                      discards :=
                        { s.parser.discards with lineOff := satInc s.parser.discards.lineOff } } }.raise
                  .downDiscard).release
              r.chain r.desc) ∧
        ((s.line r.line).txMode = .on → 16 ≤ (s.line r.line).downQueue.length →
          s.appendDown r =
            ({ s with
                  parser :=
                    { parse := .between
                      discards :=
                        { s.parser.discards with queueFull := satInc s.parser.discards.queueFull } } }.raise
                  .downDiscard).release
              r.chain r.desc) ∧
        ((s.line r.line).txMode = .on → (s.line r.line).downQueue.length < 16 →
          s.appendDown r =
            (({ s with parser := { s.parser with parse := .between } }.modLine r.line fun l =>
                { l with downQueue := l.downQueue ++ [r] }).tryBegin
              r.line)))

/-- The payload of an accepted record is stored as it was sent: when the free list has room for its blocks, the octets
of a SEND record for a station that passes the checks put a record at the tail of the line's queue whose chain has one
block for each started 16 octets and whose stored octets are the payload (R76, R77, R111, R112). A payload octet at a
16-octet boundary that finds no free block discards the record NO_BUFFER: its descriptor and blocks are released
together with a wake pass, the octet counts as consumed, and the octets that remain are skipped (R83, R86, R111,
R115). -/
def Obligations.AcceptedPayloadIsStored : Prop :=
  (∀ (s : State) (station len : Octet) (payload : List Octet),
      s.parser.parse = .between → s.CellsCanonical → s.StorageConserved → len.toNat = payload.length →
        payload ≠ [] → payload.length ≤ 16 * s.buffer.freeBlocks.length → s.buffer.freeDescs ≠ [] →
          (s.station station).valid = true → (s.station station).down = true →
            let n := (s.station station).line
            (s.line n).txMode = .on → (s.line n).downQueue.length < 16 → (s.line n).wait.isSome = true →
              ∃ (t : State) (r : DownRecord),
                (0x41 :: len :: station :: payload).foldl State.feedDown s = t ∧ t.parser.parse = .between ∧
                  (t.line n).downQueue = (s.line n).downQueue ++ [r] ∧ r.station = station ∧ r.line = n ∧
                  r.localAddr = (s.station station).localAddr ∧ r.reply = (s.station station).replyDefault ∧
                  r.channel = 0xFF ∧ r.length = payload.length ∧
                  r.chain.length = (payload.length + 15) / 16 ∧ t.buffer.payload r.chain r.length = payload ∧
                  t.buffer.freeBlocks = s.buffer.freeBlocks.drop ((payload.length + 15) / 16) ∧
                  t.parser.discards = s.parser.discards) ∧
    ∀ (s : State) (r : DownRecord) (stored : Nat) (o : Octet),
      s.parser.parse = .payload r stored → stored % 16 = 0 → s.buffer.freeBlocks = [] →
        s.feedDown o =
          ({ s with
                parser :=
                  { parse := if r.length - stored - 1 = 0 then .between else .skip (some (r.length - stored - 1))
                    discards := { s.parser.discards with noBuffer := satInc s.parser.discards.noBuffer } } }.raise
              .downDiscard).release
            r.chain r.desc

/-- The command parser: a code, a length, a tag and as many parameters make one command, which joins the Command Input
Buffer while it holds fewer than 4 and is discarded otherwise; above 40 parameters the record keeps its code, its
length and its tag alone and is marked overlength (R151, R152, R153). -/
def Obligations.CommandOctetsMakeACommand : Prop :=
  ∀ (s : State) (code len tag : Octet) (params : List Octet),
    s.mgmt.parse = .between → code ≠ 0x00 → len.toNat = params.length →
      let c : Command :=
        { code := code, length := params.length, tag := tag, params := if params.length ≤ 40 then params else []
          overlength := decide (40 < params.length) }
      s.feedCommand 0x00 = s ∧
        (s.mgmt.cib.length < 4 →
          (code :: len :: tag :: params).foldl State.feedCommand s =
            { s with
              mgmt := { s.mgmt with cib := s.mgmt.cib ++ [c], accepted := satInc s.mgmt.accepted } }) ∧
        (4 ≤ s.mgmt.cib.length →
          (code :: len :: tag :: params).foldl State.feedCommand s =
            { s with mgmt := { s.mgmt with discarded := satInc s.mgmt.discarded } }.raise .mgmtDiscard)

/-! ### Receivers, characters and records -/

/-- The receiver's moves: a start edge in HUNT, the start bit's sample in START, the ends of BREAK_HOLD and SETTLE,
and a low line that begins their wait again; in any other state each of them changes nothing (R24, R27, R38; for the
other states log 1). The one-bit rest ends, and the head record may begin; in the Quiet state and with no rest running
nothing changes (R117, R178; for the states in which it cannot arise, log 1). -/
def Obligations.ReceiverAndRestMoves : Prop :=
  (∀ (s : State) (n : LineNo),
      exec (.startEdge n) s =
          .next (if (s.line n).rx = .hunt then s.modLine n fun l => { l with rx := .start } else s) ∧
        exec (.startBitSample n false) s =
          .next (if (s.line n).rx = .start then s.modLine n fun l => { l with rx := .receiving } else s) ∧
        exec (.startBitSample n true) s =
          .next (if (s.line n).rx = .start then s.modLine n fun l => { l with rx := .hunt } else s) ∧
        exec (.breakHoldEnd n) s =
          .next
            (if (s.line n).rx = .breakHold then s.modLine n fun l => { l with rx := .hunt, highWait := none }
            else s) ∧
        exec (.settleEnd n) s =
          .next
            (if (s.line n).rx = .settle then s.modLine n fun l => { l with rx := .hunt, highWait := none }
            else s) ∧
        exec (.lineLowInWait n) s =
          .next
            (if (s.line n).rx = .breakHold then s.modLine n fun l => { l with highWait := some 1 }
            else if (s.line n).rx = .settle then
              s.modLine n fun l => { l with highWait := some l.params.charBits }
            else s)) ∧
    (∀ (s : State) (n : LineNo),
      exec (.transmitRestEnd n) s =
        .next
          (if (s.line n).resting = true ∧ s.quiet.flag = false then
            (s.modLine n fun l => { l with resting := false }).tryBegin n
          else s))

/-- The character format in both directions: the levels a transmitter puts on its line for an octet, sampled at the
middle of their bit positions, are classified as that octet with its mark and with no PARITY, no FRAMING and no BREAK,
for every format; and one parity bit that is turned over gives PARITY alone (R25, R26, R118). A low stop bit gives
FRAMING, or a BREAK of value 00h with no other status when every data, mark and parity bit was 0 (R26). -/
def Obligations.CharacterFormatInBothDirections : Prop :=
  (∀ (p : LineParams) (v : Octet) (mark : Bool) (samples : BitVec 11),
      (p.addressMark = true → p.dataBits = .eight ∧ p.parity = .none) → (mark = true → p.addressMark = true) →
        (p.dataBits = .seven → v.getLsbD 7 = false) →
          (charWave p v mark).length = p.charBits ∧
            ((∀ k, 1 ≤ k → k < p.charBits → sampleAt samples k = (charWave p v mark).getD k true) →
                classify p samples =
                  { value := v, mark := mark, parity := false, framing := false, brk := false
                    overrunBefore := false }) ∧
            (p.parity ≠ .none →
              (∀ k, 1 ≤ k → k < p.charBits →
                  sampleAt samples k =
                    ((charWave p v mark).getD k true ^^ decide (k = p.dataCount + 1))) →
                classify p samples =
                  { value := v, mark := false, parity := true, framing := false, brk := false
                    overrunBefore := false })) ∧
    (∀ (p : LineParams) (samples : BitVec 11),
      let stop := p.charBits - p.stopCount
      (sampleAt samples stop = false ∨ (p.stopBits = .two ∧ sampleAt samples (stop + 1) = false)) →
        (p.addressMark = true → p.dataBits = .eight ∧ p.parity = .none) →
          ((∀ k, 1 ≤ k → k < stop → sampleAt samples k = false) →
              classify p samples =
                { value := 0x00, mark := false, parity := false, framing := false, brk := true
                  overrunBefore := false }) ∧
            ∀ k, 1 ≤ k → k < stop → sampleAt samples k = true →
              (classify p samples).framing = true ∧ (classify p samples).brk = false)

/-- A character that completes is discarded as an echo while the line sends with echo suppression on, is staged while
the stage holds fewer than 4 with OVERRUN-BEFORE from the overrun-pending flag, its counts and a reloaded gap timer,
and is lost otherwise with an overrun and LINE_LOSS; in each case the receiver enters BREAK_HOLD after a BREAK and
HUNT after any other. Serving a line, after a character is staged or at a wake, is that its Record Assembler takes
what it can and its transmitter then begins its head record if it may (R26, R28, R29, R30, R55, R58, R72, R117, R121).
-/
def Obligations.CharacterIsDiscardedStagedOrLost : Prop :=
  (∀ (s : State) (n : LineNo), s.serve n = (s.drain n).tryBegin n) ∧
  ∀ (s : State) (n : LineNo) (samples : BitVec 11),
    (s.line n).rx = .receiving →
      let e := classify (s.line n).params samples
      let ended : Line → Line := fun l =>
        if e.brk = true then { l with rx := .breakHold, highWait := some 1 } else { l with rx := .hunt }
      exec (.characterComplete n samples) s =
        .next
          (if (s.line n).params.echo = true ∧ (s.line n).sending = true then s.modLine n ended
          else if (s.line n).stageCount < 4 then
            (s.modLine n fun l =>
                { ended l with
                  stage := l.stage ++ [.char { e with overrunBefore := l.overrunPending }]
                  overrunPending := false
                  gapTimer := if l.gapTimer.isSome then some l.params.gap else none
                  counters :=
                    { l.counters with
                      characters := satInc l.counters.characters
                      parity := if e.parity then satInc l.counters.parity else l.counters.parity
                      framing := if e.framing then satInc l.counters.framing else l.counters.framing
                      breaks := if e.brk then satInc l.counters.breaks else l.counters.breaks } }).serve
              n
          else
            (s.modLine n fun l =>
                { ended l with
                  overrunPending := true
                  lossWhileStarved := l.lossWhileStarved || l.starved
                  counters := { l.counters with overruns := satInc l.counters.overruns } }).raise
              (.lineLoss n))

/-- A data character taken while a record is open, on a plain line or under a selection, is appended to it: with a
granted growth claim at each 16-octet boundary; the record's length, flags and first-error offset follow; the octet is
stored and every other octet of the Shared Buffer is unchanged; a record that reaches the maximum record length joins
the upstream queue CONTINUED and sets the continuation marking; the items behind it in the stage are taken next (R34,
R36, R54, R55, R57, R59, R65, R77). -/
def Obligations.DataCharacterJoinsTheOpenRecord : Prop :=
  ∀ (s : State) (n : LineNo) (e : StageEntry) (behind : List StageItem) (r : UpRecord),
    (s.line n).starved = false → (s.line n).stage = .char e :: behind → e.brk = false →
      ((s.line n).params.addressMark = false ∨ (e.mark = false ∧ (s.line n).selection.isSome = true)) →
        (s.line n).openRec = some r → s.CellsCanonical →
          ∀ (grown : List Nat) (free : List Nat),
            (if r.length % 16 = 0 then
                ∃ k,
                  s.buffer.freeBlocks = k :: free ∧ grown = [k] ∧
                    (s.line n).upBlocks < (s.line n).params.quota ∧ 32 < s.buffer.freeBlocks.length
              else grown = [] ∧ s.buffer.freeBlocks = free) →
              let r' : UpRecord :=
                { r with
                  chain := r.chain ++ grown
                  length := r.length + 1
                  flags :=
                    { r.flags with
                      parity := r.flags.parity || e.parity
                      framing := r.flags.framing || e.framing
                      overrun := r.flags.overrun || e.overrunBefore }
                  firstError :=
                    match r.firstError with
                    | some k => some k
                    | none => if e.parity = true ∨ e.framing = true then some r.length else none }
              ∃ (b : Buffer) (t : State),
                b.freeBlocks = free ∧ b.freeDescs = s.buffer.freeDescs ∧ b.wakePtr = s.buffer.wakePtr ∧
                  b.payloadOctet r'.chain r.length = e.value ∧
                  (∀ a : Nat,
                    a ≠ payloadAddr r'.chain r.length → Memory.read b.cells a = Memory.read s.buffer.cells a) ∧
                  t =
                    { s.modLine n fun l =>
                        if r.length + 1 = l.params.maxLength then
                          { l with
                            stage := behind, openRec := none
                            upQueue := l.upQueue ++ [{ r' with flags := { r'.flags with continued := true } }]
                            cont := some { kind := r.kind, station := r.station, channel := r.channel }
                            counters :=
                              { l.counters with recordsClosed := satInc l.counters.recordsClosed } }
                        else { l with stage := behind, openRec := some r' } with
                      buffer := b } ∧
                  s.drain n = t.drain n

/-- A character that finds no record open opens one when the claim for a descriptor and a block is granted: it takes
the continuation marking, or begins the reply of an unbegun wait that it is a candidate for, or is DATA; a DATA
record, a continuation among them, that matches the last-expired context is LATE and counted, and a record of another
kind is never LATE; a loss while starved gives OVERRUN; the gap timer starts. A data character taken from the stage
while no record is open opens one so, on a plain line or under a selection, and is stored as its octet 0, with its
PARITY, FRAMING and OVERRUN-BEFORE and its first-error offset; a marker that waits behind it keeps the record from
being a reply; the items behind it are taken next (R34, R36, R55, R56, R66, R69, R72, R77, R78). -/
def Obligations.RecordOpens : Prop :=
  (∀ (s : State) (n : LineNo) (station : Option Octet) (markerWaits : Bool) (d k : Nat) (ds ks : List Nat),
    s.buffer.freeDescs = d :: ds → s.buffer.freeBlocks = k :: ks → 32 < s.buffer.freeBlocks.length →
      16 < s.buffer.freeDescs.length → (s.line n).upBlocks < (s.line n).params.quota →
        let l := s.line n
        let matches' : Octet → Bool := fun a => !l.params.addressMark || station == some a
        ∃ (t : State) (r : UpRecord),
          s.openRecord n station markerWaits = some t ∧
            t.buffer = { s.buffer with freeDescs := ds, freeBlocks := ks } ∧ (t.line n).openRec = some r ∧
            r.desc = d ∧ r.chain = [k] ∧ r.length = 0 ∧ r.firstError = none ∧
            r.flags.overrun = l.lossWhileStarved ∧ (t.line n).lossWhileStarved = false ∧
            (t.line n).cont = none ∧ (t.line n).gapTimer = some l.params.gap ∧
            (match l.cont, l.wait with
              | some m, _ =>
                r.kind = m.kind ∧ r.station = m.station ∧ r.channel = m.channel ∧
                  (t.line n).wait = l.wait ∧ (t.line n).respMark = l.respMark
              | none, none =>
                r.kind = .data ∧ r.station = station ∧ r.channel = none ∧ (t.line n).respMark = l.respMark
              | none, some w =>
                if w.begun = false ∧ markerWaits = false ∧ matches' w.station = true then
                  r.kind = .response ∧ r.station = some w.station ∧ r.channel = some w.channel ∧
                    (t.line n).wait = some { w with begun := true, timer := none } ∧
                    (t.line n).respMark = some { station := w.station, channel := w.channel }
                else
                  r.kind = .data ∧ r.station = station ∧ r.channel = none ∧ (t.line n).wait = l.wait ∧
                    (t.line n).respMark = l.respMark) ∧
            (r.kind = .data → l.cont = none →
              (r.flags.late = true ↔ ∃ w, l.lastExpired = some w ∧ matches' w.station = true)) ∧
            (r.flags.late = true ↔
              r.kind = .data ∧
                ∃ w, l.lastExpired = some w ∧ (l.params.addressMark = false ∨ r.station = some w.station)) ∧
            (t.line n).counters =
              { l.counters with
                late := if r.flags.late = true then satInc l.counters.late else l.counters.late } ∧
            (∀ m : LineNo, m ≠ n → t.line m = s.line m) ∧ t.mgmt = s.mgmt ∧ t.poll = s.poll) ∧
    ∀ (s : State) (n : LineNo) (e : StageEntry) (behind : List StageItem) (markerWaits : Bool) (t : State)
      (r : UpRecord),
      (s.line n).starved = false → (s.line n).stage = .char e :: behind → e.brk = false →
        ((s.line n).params.addressMark = false ∨ (e.mark = false ∧ (s.line n).selection.isSome = true)) →
          (s.line n).openRec = none → 16 ≤ (s.line n).params.maxLength → s.CellsCanonical →
            (markerWaits = true ↔ ∃ i ∈ behind, ∀ x : StageEntry, i ≠ .char x) →
              s.openRecord n (if (s.line n).params.addressMark = true then (s.line n).selection else none)
                  markerWaits = some t →
                (t.line n).openRec = some r →
                  let first : UpRecord :=
                    { r with
                      length := 1
                      flags :=
                        { r.flags with
                          parity := e.parity, framing := e.framing
                          overrun := r.flags.overrun || e.overrunBefore }
                      firstError := if e.parity = true ∨ e.framing = true then some 0 else none }
                  ∃ b : Buffer,
                    b.freeBlocks = t.buffer.freeBlocks ∧ b.freeDescs = t.buffer.freeDescs ∧
                      b.wakePtr = t.buffer.wakePtr ∧ b.payloadOctet r.chain 0 = e.value ∧
                      (∀ a : Nat, a ≠ payloadAddr r.chain 0 → Memory.read b.cells a = Memory.read s.buffer.cells a) ∧
                      s.drain n =
                        State.drain
                          { t.modLine n fun l => { l with stage := behind, openRec := some first } with buffer := b }
                          n

/-- The law of the upstream reserves: no granted opening claim and no granted growth claim leaves fewer than 32 free
blocks, and no opening claim fewer than 16 free descriptors; and a claim is refused when the quota is reached or a
reserve would be touched (R78). A refused claim, on a plain line and under a selection: the entry stays at the head of
the stage, the line is starved, and an open record joins the upstream queue TRUNCATED with LINE_LOSS; when a response
is in progress it ends with the record, and its wait with it; a starved line takes nothing (R55, R63, R65, R67, R72,
R85). -/
def Obligations.ClaimsAndRefusals : Prop :=
  (∀ (s : State) (n : LineNo),
      (∀ (station : Option Octet) (markerWaits : Bool) (t : State),
          s.openRecord n station markerWaits = some t →
            32 ≤ t.buffer.freeBlocks.length ∧ 16 ≤ t.buffer.freeDescs.length) ∧
        (∀ (r : UpRecord) (t : State), s.growRecord n r = some t → 32 ≤ t.buffer.freeBlocks.length) ∧
        ∀ (station : Option Octet) (markerWaits : Bool) (r : UpRecord),
          ((s.line n).params.quota ≤ (s.line n).upBlocks ∨ s.buffer.freeBlocks.length ≤ 32 →
              s.openRecord n station markerWaits = none ∧ s.growRecord n r = none) ∧
            (s.buffer.freeDescs.length ≤ 16 → s.openRecord n station markerWaits = none)) ∧
    (∀ (s : State) (n : LineNo) (e : StageEntry) (rest : List StageItem),
      ((s.line n).starved = true → s.drain n = s) ∧
        ((s.line n).starved = false → (s.line n).stage = .char e :: rest →
          ((s.line n).params.addressMark = false ∨ (e.mark = false ∧ (s.line n).selection.isSome = true)) →
            ((s.line n).openRec = none → s.openingAllowed n = false →
                s.drain n = s.modLine n fun l => { l with starved := true }) ∧
              ∀ r : UpRecord,
                (s.line n).openRec = some r → e.brk = false → r.length % 16 = 0 → s.growthAllowed n = false →
                  let cut : State :=
                    (s.modLine n fun l =>
                        { l with
                          starved := true, openRec := none, gapTimer := none
                          upQueue := l.upQueue ++ [{ r with flags := { r.flags with truncated := true } }]
                          counters :=
                            { l.counters with
                              recordsClosed := satInc l.counters.recordsClosed
                              recordsTruncated := satInc l.counters.recordsTruncated } }).raise
                      (.lineLoss n)
                  ((s.line n).respMark = none → s.drain n = cut) ∧
                    ∀ w : WaitName, (s.line n).respMark = some w → s.drain n = cut.responseOver n w))

/-- The stage is taken item by item, oldest first: an item that is taken leaves the items behind it to be taken next,
and one that needs storage it cannot get stays with them and starves the line (R28, R55, R60, R63). What a line's
traffic turning to another station does: an open record closes with no flag, the continuation marking is cleared, and
a response that this ends ends its wait (R59, R60, R67). An address character taken turns the traffic; the station of
the valid entry with this line, this local address and upstream capture is then selected, and without such an entry,
or with FRAMING, the line is UNSELECTED and the character is ignored (R35, R36, R44). A transmit selection does the
same and counts nothing, and a transmit boundary turns the traffic alone (R37, R60). A BREAK taken while a record is
open closes it with BREAK and stores nothing, and ends its response; with none open a record of length 0 opens and
closes with it at once, and a marker that waits behind it keeps that record from being a reply; on an address-mark
line it also ends the selection (R36, R61, R65, R66, R67). Under UNSELECTED a data character and a BREAK are ignored
(R35). That a BREAK's OVERRUN-BEFORE sets no OVERRUN is the model's reading (log 19). That a transmit selection looks
up the table of the moment it takes effect, and not of the moment its address character began, is the model's choice
(log 31). -/
def Obligations.BreakAndAddressCharacters : Prop :=
  (∀ (s : State) (n : LineNo),
      let closed : State :=
        s.modLine n fun l =>
          match l.openRec with
          | none => { l with cont := none, gapTimer := if l.cont.isSome then none else l.gapTimer }
          | some r =>
            { l with
              openRec := none, cont := none, gapTimer := none, upQueue := l.upQueue ++ [r]
              counters := { l.counters with recordsClosed := satInc l.counters.recordsClosed } }
      let ends : Prop := (s.line n).openRec.isSome = true ∨ ∃ m, (s.line n).cont = some m ∧ m.kind = .response
      (((s.line n).respMark = none ∨ ¬ends) → s.turnAway n = closed) ∧
        ∀ w : WaitName, (s.line n).respMark = some w → ends → s.turnAway n = closed.responseOver n w) ∧
    (∀ (s : State) (n : LineNo) (a : Octet) (behind : List StageItem),
      s.StationsUnique →
        let hit : Octet → Prop := fun k =>
          (s.station k).valid = true ∧ (s.station k).line = n ∧ (s.station k).localAddr = a ∧
            (s.station k).capture = true
        let turned : Option Octet → State := fun k =>
          (s.turnAway n).modLine n fun l => { l with stage := behind, selection := k }
        (∀ e : StageEntry,
            (s.line n).starved = false → (s.line n).stage = .char e :: behind → e.mark = true → e.value = a →
              (s.line n).params.addressMark = true →
                (∀ k : Octet, e.framing = false → hit k → s.drain n = (turned (some k)).drain n) ∧
                  ((e.framing = true ∨ ∀ k : Octet, ¬hit k) →
                    s.drain n =
                      ((turned none).modLine n fun l =>
                          { l with counters := { l.counters with ignored := satInc l.counters.ignored } }).drain
                        n)) ∧
          ((s.line n).starved = false → (s.line n).stage = .txSelect a :: behind →
            (∀ k : Octet, hit k → s.drain n = (turned (some k)).drain n) ∧
              ((∀ k : Octet, ¬hit k) → s.drain n = (turned none).drain n))) ∧
    (∀ (s : State) (n : LineNo) (behind : List StageItem),
      (s.line n).starved = false → (s.line n).stage = .txBoundary :: behind →
        s.drain n = ((s.turnAway n).modLine n fun l => { l with stage := behind }).drain n) ∧
    (∀ (s : State) (n : LineNo) (e : StageEntry) (behind : List StageItem) (markerWaits : Bool),
      (s.line n).starved = false → (s.line n).stage = .char e :: behind →
        ((s.line n).params.addressMark = false ∨ e.mark = false) →
          (markerWaits = true ↔ ∃ i ∈ behind, ∀ x : StageEntry, i ≠ .char x) →
            let kept : Prop := (s.line n).params.addressMark = true ∧ (s.line n).selection = none
            let broken : UpRecord → State → State := fun r t =>
              t.modLine n fun l =>
                { l with
                  stage := behind, openRec := none, gapTimer := none
                  selection := if l.params.addressMark = true then none else l.selection
                  upQueue := l.upQueue ++ [{ r with flags := { r.flags with brk := true } }]
                  counters := { l.counters with recordsClosed := satInc l.counters.recordsClosed } }
            (kept →
                s.drain n =
                  (s.modLine n fun l =>
                      { l with
                        stage := behind
                        counters := { l.counters with ignored := satInc l.counters.ignored } }).drain
                    n) ∧
              (¬kept → e.brk = true →
                (∀ r : UpRecord,
                    (s.line n).openRec = some r →
                      ((s.line n).respMark = none → s.drain n = (broken r s).drain n) ∧
                        ∀ w : WaitName,
                          (s.line n).respMark = some w → s.drain n = ((broken r s).responseOver n w).drain n) ∧
                  ((s.line n).openRec = none →
                    ∀ (t : State) (r : UpRecord),
                      s.openRecord n (if (s.line n).params.addressMark = true then (s.line n).selection else none)
                            markerWaits =
                          some t →
                        (t.line n).openRec = some r →
                          r.length = 0 ∧ ((t.line n).respMark = none → s.drain n = (broken r t).drain n) ∧
                            ∀ w : WaitName,
                              (t.line n).respMark = some w → s.drain n = ((broken r t).responseOver n w).drain n))) ∧
    ∀ (s : State) (n : LineNo),
      ((s.line n).stage = [] → s.drain n = s) ∧
        ∀ (i : StageItem) (behind : List StageItem) (markerWaits : Bool),
          (s.line n).starved = false → (s.line n).stage = i :: behind →
            (markerWaits = true ↔ ∃ j ∈ behind, ∀ x : StageEntry, j ≠ .char x) →
              (∀ t : State,
                  s.takeItem n markerWaits i = some t →
                    s.drain n = (t.modLine n fun l => { l with stage := behind }).drain n) ∧
                (s.takeItem n markerWaits i = none →
                  ((s.drain n).line n).stage = i :: behind ∧ ((s.drain n).line n).starved = true)

/-- The gap timer expires: an open record joins the upstream queue with no flag, or a continuation marking is cleared;
the timer stops; when the record or marking was the reply's, the wait ends, its channel is told ANSWERED, and the
transmitter may begin its head record (R58, R59, R65, R67, R121, R148). -/
def Obligations.GapExpiryClosesTheRecord : Prop :=
  ∀ (s : State) (n : LineNo),
    (s.line n).gapTimer.isSome = true →
      (∀ r : UpRecord,
          (s.line n).openRec = some r → (s.line n).cont = none →
            let closed : State :=
              s.modLine n fun l =>
                { l with
                  openRec := none, gapTimer := none, upQueue := l.upQueue ++ [r]
                  counters := { l.counters with recordsClosed := satInc l.counters.recordsClosed } }
            ((s.line n).respMark = none → exec (.gapExpiry n) s = .next (closed.tryBegin n)) ∧
              ∀ w : WaitName,
                (s.line n).respMark = some w →
                  exec (.gapExpiry n) s =
                    .next
                      ((((closed.modLine n fun l =>
                              Line.settleDrain { l with respMark := none, wait := none }).pollEnd
                            w.channel .answered)).tryBegin
                        n)) ∧
        (∀ m : Continuation,
          (s.line n).openRec = none → (s.line n).cont = some m → m.kind = .data →
            exec (.gapExpiry n) s =
              .next ((s.modLine n fun l => { l with cont := none, gapTimer := none }).tryBegin n)) ∧
        ∀ (m : Continuation) (w : WaitName),
          (s.line n).openRec = none → (s.line n).cont = some m → m.kind = .response →
            (s.line n).respMark = some w →
              exec (.gapExpiry n) s =
                .next
                  (((s.modLine n fun l =>
                          Line.settleDrain
                            { l with cont := none, gapTimer := none, respMark := none, wait := none }).pollEnd
                        w.channel .answered).tryBegin
                    n)

/-! ### The Shared Buffer's releases -/

/-- A release returns the record's descriptor and its blocks, in the order of its chain, to the tails of the free
lists; with no line starved that is all it does (R76, R83, R86). The wake pass goes through the eight lines from the
one after the wake pointer: each starved line that the free counts and its quota allow leaves the starved set, has the
wake pointer set to it and goes on taking its entries, and any other is left as it is; with 32 free blocks or fewer,
or 16 free descriptors or fewer, the pass wakes no line (R72, R84, R85, R86). That a woken line goes on at once,
before the next line's retry, is the model's reading (log 11). -/
def Obligations.ReleaseAndWakePass : Prop :=
  (∀ (s : State) (chain : List Nat) (desc : Nat),
      s.NoneStarved →
        s.release chain desc =
          { s with
            buffer :=
              { s.buffer with
                freeBlocks := s.buffer.freeBlocks ++ chain, freeDescs := s.buffer.freeDescs ++ [desc] } }) ∧
    (∀ s : State,
      ((s.buffer.freeBlocks.length ≤ 32 ∨ s.buffer.freeDescs.length ≤ 16) → s.wakePass = s) ∧
        ((∀ n : LineNo, (s.line n).starved = true → (s.line n).params.quota ≤ (s.line n).upBlocks) →
          s.wakePass = s) ∧
        ∀ n : LineNo,
          (s.line n).starved = true → (∀ m : LineNo, m ≠ n → (s.line m).starved = false) →
            32 < s.buffer.freeBlocks.length → 16 < s.buffer.freeDescs.length →
              (s.line n).upBlocks < (s.line n).params.quota →
                s.wakePass =
                  (({ s with buffer := { s.buffer with wakePtr := n } }.modLine n fun l =>
                      { l with starved := false }).serve
                    n)) ∧
    (∀ s : State,
      let p := s.buffer.wakePtr
      s.wakePass =
        ([p + 1, p + 2, p + 3, p + 4, p + 5, p + 6, p + 7, p] : List LineNo).foldl
          (fun u n =>
            if (u.line n).starved = true ∧ 32 < u.buffer.freeBlocks.length ∧ 16 < u.buffer.freeDescs.length ∧
                (u.line n).upBlocks < (u.line n).params.quota then
              ({ u with buffer := { u.buffer with wakePtr := n } }.modLine n fun l =>
                  { l with starved := false }).serve
                n
            else u)
          s)

/-! ### Transmitters -/

/-- A transmitter begins its head record exactly when it is not OFF, sends nothing, keeps no reply wait, has no Quiet
hold and its one-bit rest is over: LnDE is asserted, LnTX carries the address character in address-mark mode, the
break and the payload, the last-expired context is cleared, and a transmit selection or boundary joins the stage order
of a receiver that is not OFF, whose entries the Record Assembler then takes (R37, R60, R117, R118). That a transmit
selection looks up the table of the moment it takes effect, and not of the moment its address character began, is the
model's choice (log 31). -/
def Obligations.TransmitterBeginsItsHeadRecord : Prop :=
  ∀ (s : State) (n : LineNo),
    let l := s.line n
    (l.downQueue = [] → s.tryBegin n = s) ∧
      ((l.txMode = .off ∨ l.sending = true ∨ l.wait.isSome = true ∨ l.quietHold = true ∨ l.resting = true) →
        s.tryBegin n = s) ∧
      ∀ (r : DownRecord) (rest : List DownRecord),
        l.downQueue = r :: rest → l.txMode ≠ .off → l.sending = false → l.wait = none → l.quietHold = false →
          l.resting = false →
            let levels :=
              (if l.params.addressMark = true then charWave l.params r.localAddr true else []) ++
                  (if r.brk = true then List.replicate (2 * l.params.charBits) false ++ [true] else []) ++
                (s.buffer.payload r.chain r.length).flatMap fun v => charWave l.params v false
            let marker : List StageItem :=
              if l.rx = .off then []
              else if l.params.addressMark = true then [.txSelect r.localAddr] else [.txBoundary]
            s.tryBegin n =
              (s.modLine n fun l =>
                  { l with
                    sending := true, wave := levels, lastExpired := none, stage := l.stage ++ marker }).drain
                n

/-- The end of a record's last element: LnDE is negated, the one-bit rest begins, the record leaves the queue, counts
as sent and is released; with its reply flag a wait begins with the line's reply timeout, and without it the channel
is told SENT and a DRAINING transmitter left without work is OFF (R117, R119, R120, R125, R148). That the release
comes before the wait begins is the model's reading (log 12). -/
def Obligations.RecordEndReleasesAndWaits : Prop :=
  ∀ (s : State) (n : LineNo) (r : DownRecord) (rest : List DownRecord),
    (s.line n).sending = true → (s.line n).downQueue = r :: rest →
      let ended : State :=
        (s.modLine n fun l =>
            { l with
              sending := false, wave := [], resting := true, downQueue := rest
              counters := { l.counters with recordsSent := satInc l.counters.recordsSent } }).release
          r.chain r.desc
      (r.reply = true →
          exec (.transmitRecordEnd n) s =
            .next
              (ended.modLine n fun l =>
                { l with
                  wait :=
                    some
                      { station := r.station, channel := r.channel, begun := false
                        timer := some (10 * l.params.replyTimeout) } })) ∧
        (r.reply = false →
          exec (.transmitRecordEnd n) s =
            .next
              ((ended.modLine n fun l =>
                  if l.txMode = .draining ∧ l.sending = false ∧ l.wait = none ∧ l.downQueue = [] then
                    { l with txMode := .off }
                  else l).pollEnd
                r.channel .sent))

/-- An unbegun reply wait whose timeout has elapsed expires: a NO_REPLY record with the wait's station and channel
joins the upstream queue when a descriptor is free and LINE_LOSS is raised otherwise; the expiry is counted, the
last-expired context set, the wait ended, a drained transmitter OFF, the channel told NO_REPLY, and the head record
may begin (R68, R79, R120, R122, R148). -/
def Obligations.ReplyTimeoutReportsNoReply : Prop :=
  ∀ (s : State) (n : LineNo) (w : ReplyWait),
    (s.line n).wait = some w → w.begun = false → w.timer = some 0 →
      let expired : Line → Line := fun l =>
        Line.settleDrain
          { l with
            wait := none
            lastExpired := some { station := w.station, channel := w.channel }
            counters := { l.counters with noReplies := satInc l.counters.noReplies } }
      (s.buffer.freeDescs = [] →
          exec (.replyTimeout n) s =
            .next ((((s.raise (.lineLoss n)).modLine n expired).pollEnd w.channel .noReply).tryBegin n)) ∧
        ∀ (d : Nat) (ds : List Nat),
          s.buffer.freeDescs = d :: ds →
            ∃ r : UpRecord,
              r.header = [0x23, 0x00, 0x80, w.station, w.channel] ∧ r.desc = d ∧ r.chain = [] ∧ r.length = 0 ∧
                exec (.replyTimeout n) s =
                  .next
                    ((({ s with buffer := { s.buffer with freeDescs := ds } }.modLine n fun l =>
                              expired { l with upQueue := l.upQueue ++ [r] }).pollEnd
                          w.channel .noReply).tryBegin
                      n)

/-! ### Line commands -/

/-- Set Line replaces the parameter record of a line whose receiver and transmitter are OFF and that holds no upstream
record, and is BUSY otherwise; Read Line gives the same octets back with the line's state (R22, R23, R189). -/
def Obligations.SetLineAndReadLine : Prop :=
  ∀ (s : State) (rest : List Command) (tag : Octet) (n : LineNo) (p : LineParams),
    p.Lawful →
      (∀ c : Command,
        c = Command.plain 0x10 tag (natOctet n.val :: p.octets) →
        s.Due c rest →
          ((s.line n).rx = .off → (s.line n).txMode = .off → (s.line n).openRec = none →
              (s.line n).upQueue = [] →
                exec .setLine s =
                  .next ((s.modLine n fun l => { l with params := p }).answered rest (c.answer .ok []))) ∧
            (((s.line n).rx ≠ .off ∨ (s.line n).txMode ≠ .off ∨ (s.line n).openRec ≠ none ∨
                (s.line n).upQueue ≠ []) →
              exec .setLine s = .next (s.answered rest (c.answer .busy [])))) ∧
        (∀ c : Command,
        c = Command.plain 0x11 tag [natOctet n.val] →
          s.Due c rest → (s.line n).params = p →
            exec .readLine s =
              .next
                (s.answered rest
                  (c.answer .ok
                    (p.octets ++
                      [if (s.line n).rx = .off then 0x00 else 0x01, (s.line n).transmitter.octet,
                        if (s.line n).selection = none then 0x00 else 0x01, (s.line n).selection.getD 0x00,
                        natOctet (s.line n).stageCount, if (s.line n).overrunPending then 0x01 else 0x00]))))

/-- Receiver-on takes an OFF receiver into HUNT with an empty stage, and leaves any other as it is; receiver-off
abandons reception, empties the stage with its markers, clears the selection, the pending overrun and the starved
state, closes the open record TRUNCATED with LINE_LOSS and clears the continuation marking; a response in progress
ends with the record or the marking, and its wait with it (R31, R32, R33, R62, R67, R121). That receiver-off leaves no
marker of a record begun at the same moment is the model's reading (log 16). -/
def Obligations.ReceiverOnAndOff : Prop :=
  ∀ (s : State) (rest : List Command) (tag : Octet) (n : LineNo),
    (∀ c : Command,
        c = Command.plain 0x12 tag [natOctet n.val, 0x01, 0x00, 0x00] →
      s.Due c rest →
        exec .receiverOn s =
          .next
            ((if (s.line n).rx = .off then
                s.modLine n fun l =>
                  { l with rx := .hunt, stage := [], overrunPending := false, selection := none }
              else s).answered
              rest (c.answer .ok []))) ∧
      (∀ c : Command,
        c = Command.plain 0x12 tag [natOctet n.val, 0x02, 0x00, 0x00] →
        let off : Line → Line := fun l =>
          { l with
            rx := .off, highWait := none, stage := [], overrunPending := false, selection := none
            starved := false, lossWhileStarved := false, cont := none, gapTimer := none }
        s.Due c rest →
          ((s.line n).rx = .off → exec .receiverOff s = .next (s.answered rest (c.answer .ok []))) ∧
            ((s.line n).rx ≠ .off → (s.line n).respMark = none → (s.line n).openRec = none →
              exec .receiverOff s = .next ((((s.dequeued rest).modLine n off).tryBegin n).replied (c.answer .ok []))) ∧
            (∀ r : UpRecord,
              (s.line n).rx ≠ .off → (s.line n).respMark = none → (s.line n).openRec = some r →
                exec .receiverOff s =
                  .next
                    (((((s.dequeued rest).modLine n fun l =>
                              { off l with
                                openRec := none
                                upQueue := l.upQueue ++ [{ r with flags := { r.flags with truncated := true } }]
                                counters :=
                                  { l.counters with
                                    recordsClosed := satInc l.counters.recordsClosed
                                    recordsTruncated := satInc l.counters.recordsTruncated } }).raise
                            (.lineLoss n)).tryBegin
                          n).replied
                      (c.answer .ok []))) ∧
            ∀ w : WaitName,
              (s.line n).rx ≠ .off → (s.line n).respMark = some w →
                (∀ r : UpRecord,
                    (s.line n).openRec = some r →
                      exec .receiverOff s =
                        .next
                          ((((((s.dequeued rest).modLine n fun l =>
                                      { off l with
                                        openRec := none
                                        upQueue :=
                                          l.upQueue ++ [{ r with flags := { r.flags with truncated := true } }]
                                        counters :=
                                          { l.counters with
                                            recordsClosed := satInc l.counters.recordsClosed
                                            recordsTruncated := satInc l.counters.recordsTruncated } }).raise
                                    (.lineLoss n)).responseOver
                                  n w).tryBegin
                                n).replied
                            (c.answer .ok []))) ∧
                  ∀ m : Continuation,
                    (s.line n).openRec = none → (s.line n).cont = some m → m.kind = .response →
                      exec .receiverOff s =
                        .next
                          (((((s.dequeued rest).modLine n off).responseOver n w).tryBegin n).replied
                            (c.answer .ok [])))

/-- Transmitter-on makes OFF IDLE and withdraws a drain, and the head record may begin; transmitter-off makes an IDLE
transmitter with an empty queue OFF and any other that is not OFF DRAINING (R31, R124, R125). The flush releases every
record that has not begun in one release, followed by one wake pass, tells the channel of each poll record ABANDONED,
and lets a DRAINING transmitter without work be OFF; the record being sent, the reply wait and the last-expired
context stay (R83, R86, R125, R126, R148). That the records' chains join the free lists in the order of the queue is
the model's choice (log 29), and that a flush of nothing makes no wake pass its reading (log 28). -/
def Obligations.TransmitterSwitchAndFlush : Prop :=
  ∀ (s : State) (rest : List Command) (tag : Octet) (n : LineNo),
    (∀ c : Command,
        c = Command.plain 0x12 tag [natOctet n.val, 0x00, 0x01, 0x00] →
      s.Due c rest →
        exec .transmitterOn s =
          .next
            ((((s.dequeued rest).modLine n fun l => { l with txMode := .on }).tryBegin n).replied
              (c.answer .ok []))) ∧
      (∀ c : Command,
        c = Command.plain 0x12 tag [natOctet n.val, 0x00, 0x02, 0x00] →
        s.Due c rest →
          exec .transmitterOff s =
            .next
              ((s.modLine n fun l =>
                    if l.txMode = .on then
                      { l with
                        txMode :=
                          if l.sending = false ∧ l.wait = none ∧ l.downQueue = [] then .off else .draining }
                    else l).answered
                rest (c.answer .ok []))) ∧
      (∀ c : Command,
        c = Command.plain 0x12 tag [natOctet n.val, 0x00, 0x00, 0x01] →
        s.Due c rest →
          let returned : List DownRecord → List DownRecord → State := fun kept gone =>
            { (s.dequeued rest).modLine n fun l => { l with downQueue := kept } with
              buffer :=
                { s.buffer with
                  freeBlocks := s.buffer.freeBlocks ++ gone.flatMap (fun r => r.chain)
                  freeDescs := s.buffer.freeDescs ++ gone.map (fun r => r.desc) } }
          (∀ gone kept : List DownRecord,
              kept = (if (s.line n).sending then (s.line n).downQueue.take 1 else []) →
                gone = (if (s.line n).sending then (s.line n).downQueue.drop 1 else (s.line n).downQueue) →
                  (gone = [] → exec .flush s = .next (s.answered rest (c.answer .ok []))) ∧
                    (gone ≠ [] →
                      exec .flush s =
                        .next
                          (((gone.foldl (fun (u : State) (r : DownRecord) => u.pollEnd r.channel .abandoned)
                                  (returned kept gone).wakePass).modLine
                              n fun l =>
                              if l.txMode = .draining ∧ l.sending = false ∧ l.wait = none ∧ l.downQueue = [] then
                                { l with txMode := .off }
                              else l).replied
                            (c.answer .ok [])))) ∧
          (s.NoneStarved →
          ∃ t : State,
            exec .flush s = .next (t.replied (c.answer .ok [])) ∧
              (t.line n).downQueue = (if (s.line n).sending then (s.line n).downQueue.take 1 else []) ∧
              (∀ m : LineNo, m ≠ n → t.line m = s.line m) ∧
              (∀ gone : List DownRecord,
                gone = (if (s.line n).sending then (s.line n).downQueue.drop 1 else (s.line n).downQueue) →
                t.buffer.freeBlocks = s.buffer.freeBlocks ++ gone.flatMap (fun r => r.chain) ∧
                  t.buffer.freeDescs = s.buffer.freeDescs ++ gone.map (fun r => r.desc) ∧
                  ∀ k : ChannelNo,
                    (∃ r ∈ gone, r.channel = natOctet k.val) →
                      (t.chan k).outstanding = false ∧ (t.chan k).outcome = .abandoned) ∧
              (t.line n =
                { s.line n with
                  downQueue := (t.line n).downQueue
                  txMode :=
                    if (t.line n).downQueue.length < (s.line n).downQueue.length ∧ (s.line n).txMode = .draining ∧
                        (s.line n).sending = false ∧ (s.line n).wait = none then
                      .off
                    else (s.line n).txMode }) ∧
              t.mgmt = { s.mgmt with cib := rest } ∧ t.stations = s.stations ∧ t.framer = s.framer))

/-- Line Control takes effect as the receiver action, then the transmitter action, then the flush, and is answered
once; each row of one action is the same execution of the command that carries the action; a line above 7 or an action
outside NONE, ON and OFF is refused RANGE with no action taken (R31). That the rows of single actions are executions
of the same command is the model's choice (log 3). -/
def Obligations.LineControlActsInOrder : Prop :=
  ∀ (s : State) (rest : List Command) (tag : Octet) (n : LineNo) (rx tx fl : Octet),
    (∀ c : Command,
        c = Command.plain 0x12 tag [natOctet n.val, rx, tx, fl] →
      s.Due c rest → rx.toNat ≤ 2 → tx.toNat ≤ 2 → fl.toNat ≤ 1 →
        let u := s.dequeued rest
        let a : State := if rx = 0x01 then u.receiverOn n else if rx = 0x02 then u.receiverOff n else u
        let b : State := if tx = 0x01 then a.transmitterOn n else if tx = 0x02 then a.transmitterOff n else a
        let d : State := if fl = 0x01 then b.flush n else b
        exec .lineControl s = .next (d.replied (c.answer .ok [])) ∧
          (rx = 0x01 → exec .receiverOn s = exec .lineControl s) ∧
          (rx = 0x02 → exec .receiverOff s = exec .lineControl s) ∧
          (tx = 0x01 → exec .transmitterOn s = exec .lineControl s) ∧
          (tx = 0x02 → exec .transmitterOff s = exec .lineControl s) ∧
          (fl = 0x01 → exec .flush s = exec .lineControl s)) ∧
      ∀ line : Octet,
        let c := Command.plain 0x12 tag [line, rx, tx, fl]
        s.Due c rest → (7 < line.toNat ∨ 2 < rx.toNat ∨ 2 < tx.toNat ∨ 1 < fl.toNat) →
          exec .lineControl s = .next (s.answered rest (c.answer .range []))

/-! ### The Station Table and the Slot Map -/

/-- Write Station: BUSY while a reply wait or an address selection names the station; CONFLICT, with the number of the
entry in the way, when the new entry is valid and another valid entry holds its line and local address; otherwise
every field is replaced (R45, R46, R47, R190). Invalidate Station clears the valid field alone, and is BUSY while the
entry is referenced; Read Station gives the entry with its waiting lines, one bit for each, and its selecting line,
and changes nothing (R48, R49, R190). -/
def Obligations.StationCommands : Prop :=
  (∀ (s : State) (rest : List Command) (tag station : Octet) (e : Station),
      ∀ c : Command,
        c = Command.plain 0x20 tag (station :: e.octets) → s.Due c rest →
          let named := ∃ n : LineNo, (∃ w, (s.line n).wait = some w ∧ w.station = station) ∨
            (s.line n).selection = some station
          (named → exec .writeStation s = .next (s.answered rest (c.answer .busy []))) ∧
            (¬named → (e.valid = false ∨ ∀ k : Octet,
                k ≠ station → (s.station k).valid = true → (s.station k).line = e.line →
                  (s.station k).localAddr ≠ e.localAddr) →
              exec .writeStation s = .next ((s.setStation station e).answered rest (c.answer .ok []))) ∧
            ∀ k : Octet,
              ¬named → e.valid = true → s.StationsUnique → k ≠ station → (s.station k).valid = true →
                (s.station k).line = e.line → (s.station k).localAddr = e.localAddr →
                  exec .writeStation s = .next (s.answered rest (c.answer .conflict [k]))) ∧
    (∀ (s : State) (rest : List Command) (tag station : Octet),
      (∀ c : Command,
          c = Command.plain 0x21 tag [station] → s.Due c rest →
            ((∃ n : LineNo, (∃ w, (s.line n).wait = some w ∧ w.station = station) ∨
                  (s.line n).selection = some station) →
                exec .invalidateStation s = .next (s.answered rest (c.answer .busy []))) ∧
              ((∀ n : LineNo,
                  (∀ w, (s.line n).wait = some w → w.station ≠ station) ∧ (s.line n).selection ≠ some station) →
                exec .invalidateStation s =
                  .next
                    ((s.setStation station { s.station station with valid := false }).answered rest
                      (c.answer .ok [])))) ∧
        ∀ c : Command,
          c = Command.plain 0x22 tag [station] → s.Due c rest →
            ∃ waiting selecting : Octet,
              exec .readStation s =
                  .next (s.answered rest (c.answer .ok ((s.station station).octets ++ [waiting, selecting]))) ∧
                (∀ n : LineNo,
                  waiting.getLsbD n.val = true ↔ ∃ w, (s.line n).wait = some w ∧ w.station = station) ∧
                ((∀ n : LineNo, (s.line n).selection ≠ some station) → selecting = 0xFF) ∧
                ∀ n : LineNo,
                  (s.line n).selection = some station →
                    (∀ m : LineNo, (s.line m).selection = some station → m = n) → selecting = natOctet n.val)

/-- The Slot Map's commands: Write Slot writes the shadow bank's entry and is BUSY while a swap is pending; Read Slot
gives an entry of either bank with the active-bank index and the swap-pending flag, and refuses a bank above 1 or a
slot above 27 RANGE; Swap Banks sets the flag and is BUSY while it is set; Write Slot refuses a slot above 27 and an
owner that is neither a line nor FFh RANGE (R91, R92, R93, R191). -/
def Obligations.SlotMapCommands : Prop :=
  ∀ (s : State) (rest : List Command) (tag : Octet) (k : SlotNo) (owner : Option LineNo) (frames : Half),
    (∀ c : Command,
        c = Command.plain 0x30 tag ([natOctet k.val, ownerOctet owner] ++ halfOctets frames) → s.Due c rest →
          (s.slots.swapPending = true → exec .writeSlot s = .next (s.answered rest (c.answer .busy []))) ∧
            (s.slots.swapPending = false →
              ∃ banks : Vector (Vector SlotEntry 28) 2,
                exec .writeSlot s =
                    .next
                      ({ s with slots := { s.slots with banks := banks } }.answered rest (c.answer .ok [])) ∧
                  ∀ (b : Fin 2) (j : SlotNo),
                    (banks[b])[j] =
                      if b ≠ s.slots.active ∧ j = k then { owner := owner, frames := frames }
                      else (s.slots.banks[b])[j])) ∧
      (∀ (c : Command) (b : Fin 2),
        c = Command.plain 0x31 tag [natOctet b.val, natOctet k.val] → s.Due c rest →
          exec .readSlot s =
            .next
              (s.answered rest
                (c.answer .ok
                  ([ownerOctet ((s.slots.banks[b])[k]).owner] ++ halfOctets ((s.slots.banks[b])[k]).frames ++
                    [natOctet s.slots.active.val, if s.slots.swapPending then 0x01 else 0x00])))) ∧
      (∀ c : Command,
        c = Command.plain 0x32 tag [] → s.Due c rest →
          (s.slots.swapPending = true → exec .swapBanks s = .next (s.answered rest (c.answer .busy []))) ∧
            (s.slots.swapPending = false →
              exec .swapBanks s =
                .next
                  ({ s with slots := { s.slots with swapPending := true } }.answered rest (c.answer .ok [])))) ∧
      (∀ (c : Command) (bank slot : Octet),
        c = Command.plain 0x31 tag [bank, slot] → s.Due c rest → (1 < bank.toNat ∨ 27 < slot.toNat) →
          exec .readSlot s = .next (s.answered rest (c.answer .range []))) ∧
      ∀ (c : Command) (slot o hi lo : Octet),
        c = Command.plain 0x30 tag [slot, o, hi, lo] → s.Due c rest →
          (27 < slot.toNat ∨ (7 < o.toNat ∧ o ≠ 0xFF)) →
            exec .writeSlot s = .next (s.answered rest (c.answer .range []))

/-! ### Poll channels -/

/-- An interval counter that has run out on an ARMED TIMER channel outside the Quiet state is loaded again and
triggers the channel: the trigger is missed while it is pending, or outstanding in RUN mode, and makes it pending
otherwise (R136, R137). That the step changes nothing in any other state is the model's choice (log 1), and that the
counter is held in ms its reading (log 17). The end of an outstanding record: the channel is no longer outstanding and
holds the outcome, and an ARMED channel with a run in progress is pending again; a record of no channel changes
nothing (R148, R149). -/
def Obligations.TriggersAndOutcomes : Prop :=
  (∀ (s : State) (c : ChannelNo),
      exec (.pollIntervalExpiry c) s =
        .next
          (if (s.chan c).armed = true ∧ (s.chan c).settings.trigger = .timer ∧ (s.chan c).counter = some 0 ∧
              s.quiet.flag = false then
            s.modChan c fun ch =>
              if ch.pending = true ∨ (ch.outstanding = true ∧ ch.settings.mode = .run) then
                { ch with counter := some (10 * ch.settings.interval), missed := satInc ch.missed }
              else { ch with counter := some (10 * ch.settings.interval), pending := true }
          else s)) ∧
    (∀ (s : State) (channel : Octet) (o : PollOutcome),
      (8 ≤ channel.toNat → s.pollEnd channel o = s) ∧
        ∀ c : ChannelNo,
          channel = natOctet c.val →
            s.pollEnd channel o =
              s.modChan c fun ch =>
                if ch.runInProgress = true ∧ ch.armed = true then
                  { ch with outstanding := false, outcome := o, pending := true, runInProgress := false }
                else { ch with outstanding := false, outcome := o })

/-- The arbiter's choice: in FIXED mode the lowest-numbered eligible channel, in ROTATING mode the first eligible one
from the channel after the pointer on, with channel 0 after channel 7; none when no channel is eligible; and the five
conditions of eligibility (R141, R142). -/
def Obligations.ArbiterChoosesAnEligibleChannel : Prop :=
  ∀ s : State,
    (∀ c : ChannelNo,
        s.eligible c = true ↔
          (s.chan c).pending = true ∧ (s.line (s.chan c).settings.target).txMode = .on ∧
            (s.line (s.chan c).settings.target).quietHold = false ∧
            (s.line (s.chan c).settings.target).downQueue.length < 16 ∧
            (∀ d : ChannelNo,
              (s.chan d).outstanding = true → (s.chan d).settings.target ≠ (s.chan c).settings.target) ∧
            s.buffer.freeDescs ≠ [] ∧ s.buffer.freeBlocks ≠ []) ∧
      ((∀ c : ChannelNo, s.eligible c = false) → exec .pollGrant s = .next s) ∧
      (s.poll.mode = .fixed →
        ∀ c : ChannelNo,
          s.choice = some c ↔ s.eligible c = true ∧ ∀ d : ChannelNo, d < c → s.eligible d = false) ∧
      (s.poll.mode = .rotating →
        ∀ c : ChannelNo,
          s.choice = some c ↔
            s.eligible c = true ∧
              ∀ d : ChannelNo, d - s.poll.pointer - 1 < c - s.poll.pointer - 1 → s.eligible d = false)

/-- A grant whose station check passes: a poll record with the entry's station, reply flag and payload and the
channel's number joins the target line's queue with one descriptor and one block; the channel is outstanding, its
request taken, its index moved by ADVANCE and its count lowered; a count of 0 raises POLL_TERMINAL and reloads or
masks the channel; the rotation pointer is the channel; the line may begin the record (R108, R130, R142, R145, R147).
A grant whose station check fails is a script fault: the channel is MASKED with its position kept and its outstanding
field clear as before, POLL_FAULT is raised, no storage is claimed and no queue changes (R42, R146). -/
def Obligations.GrantMakesARecordOrFaults : Prop :=
  (∀ (s : State) (c : ChannelNo) (d k : Nat) (ds ks : List Nat),
      s.choice = some c → s.buffer.freeDescs = d :: ds → s.buffer.freeBlocks = k :: ks →
        let ch := s.chan c
        let e := s.poll.script[ch.current]
        let st := s.station e.station
        st.valid = true → st.down = true → st.line = ch.settings.target →
          let r : DownRecord :=
            { desc := d, chain := [k], origin := .poll, brk := false, reply := e.reply, station := e.station
              line := st.line, localAddr := st.localAddr, channel := natOctet c.val, length := e.payload.length }
          let moved : Channel :=
            { ch with
              pending := false, oneShot := false, outstanding := true
              current := if ch.settings.step = .advance then ch.current + 1 else ch.current
              count := ch.count - 1 }
          let after : Channel :=
            if ch.count - 1 = 0 then
              if ch.settings.reload = true then
                { moved with
                  current := ch.settings.baseIndex, count := ch.settings.baseCount, runInProgress := false }
              else { moved with armed := false, counter := none, runInProgress := false }
            else
              { moved with runInProgress := ch.armed && ch.settings.mode == .run && !ch.oneShot }
          let queued : State :=
            { s with
              poll := { s.poll with pointer := c }
              buffer :=
                { s.buffer with freeDescs := ds, freeBlocks := ks }.storeAll [k] 0 e.payload }.modLine
              st.line fun l => { l with downQueue := l.downQueue ++ [r] }
          let raised : State := if ch.count - 1 = 0 then queued.raise (.pollTerminal c) else queued
          exec .pollGrant s = .next ((raised.modChan c fun _ => after).tryBegin st.line)) ∧
    (∀ (s : State) (c : ChannelNo),
      s.choice = some c →
        let e := s.poll.script[(s.chan c).current]
        let st := s.station e.station
        (st.valid = false ∨ st.down = false ∨ st.line ≠ (s.chan c).settings.target) →
          exec .pollGrant s =
            .next
              (({ s with poll := { s.poll with pointer := c } }.modChan c fun ch =>
                  { ch with
                    armed := false, pending := false, oneShot := false, runInProgress := false
                    counter := none }).raise
                (.pollFault c)))

/-- Set Channel replaces the settings and the position of a channel that is MASKED, not outstanding and not pending,
and is BUSY otherwise; Read Channel gives every field and changes nothing (R133, R134, R135, R192). That the interval
counter is read back in units of 10 ms, rounded up, is the model's reading (log 17). -/
def Obligations.SetChannelAndReadChannel : Prop :=
  ∀ (s : State) (rest : List Command) (tag : Octet) (k : ChannelNo) (p : ChannelSettings),
    p.Lawful →
      (∀ c : Command,
          c =
              Command.plain 0x50 tag
                ([natOctet k.val, natOctet p.target.val, natOctet p.baseIndex.val, natOctet p.baseCount,
                    p.step.octet, p.mode.octet, if p.reload then 0x01 else 0x00, p.trigger.octet] ++
                  halfOctets (BitVec.ofNat 16 p.interval)) →
            s.Due c rest →
              ((s.chan k).armed = false → (s.chan k).outstanding = false → (s.chan k).pending = false →
                  exec .setChannel s =
                    .next
                      ((s.modChan k fun ch =>
                            { ch with settings := p, current := p.baseIndex, count := p.baseCount }).answered
                        rest (c.answer .ok []))) ∧
                (((s.chan k).armed = true ∨ (s.chan k).outstanding = true ∨ (s.chan k).pending = true) →
                  exec .setChannel s = .next (s.answered rest (c.answer .busy [])))) ∧
        ∀ c : Command,
          c = Command.plain 0x51 tag [natOctet k.val] → s.Due c rest →
            let ch := s.chan k
            exec .readChannel s =
              .next
                (s.answered rest
                  (c.answer .ok
                    ([boolOctet ch.armed, boolOctet ch.pending, boolOctet ch.oneShot,
                        natOctet ch.settings.target.val, natOctet ch.settings.baseIndex.val,
                        natOctet ch.current.val, natOctet ch.settings.baseCount, natOctet ch.count,
                        ch.settings.step.octet, ch.settings.mode.octet, boolOctet ch.settings.reload,
                        ch.settings.trigger.octet] ++
                      halfOctets (BitVec.ofNat 16 ch.settings.interval) ++
                      halfOctets (BitVec.ofNat 16 (counterUnits ch.counter)) ++
                      [boolOctet ch.outstanding, boolOctet ch.runInProgress, ch.outcome.octet] ++
                      halfOctets ch.missed)))

/-- Poll Control: ARM restarts the channel from its base, ARMED, with nothing pending and a TIMER counter loaded; MASK
masks it and keeps its position; POLL_NOW makes it pending, one-shot on a MASKED channel, and is BUSY while it is
pending, while an ARMED RUN channel is outstanding, and on a MASKED channel with count 0; a channel above 7 or an
action outside the three is RANGE (R138, R139, R140). That each of the three rows answers a command with such a
channel or action is the model's choice (log 2). -/
def Obligations.PollControlActions : Prop :=
  ∀ (s : State) (rest : List Command) (tag : Octet) (k : ChannelNo),
    (∀ c : Command,
        c = Command.plain 0x52 tag [natOctet k.val, 0x00] → s.Due c rest →
          exec .arm s =
            .next
              ((s.modChan k fun ch =>
                    { ch with
                      armed := true, pending := false, oneShot := false, runInProgress := false
                      current := ch.settings.baseIndex, count := ch.settings.baseCount
                      counter :=
                        if ch.settings.trigger = .timer then some (10 * ch.settings.interval) else none }).answered
                rest (c.answer .ok []))) ∧
      (∀ c : Command,
        c = Command.plain 0x52 tag [natOctet k.val, 0x01] → s.Due c rest →
          exec .mask s =
            .next
              ((s.modChan k fun ch =>
                    { ch with
                      armed := false, pending := false, oneShot := false, runInProgress := false
                      counter := none }).answered
                rest (c.answer .ok []))) ∧
      (∀ c : Command,
        c = Command.plain 0x52 tag [natOctet k.val, 0x02] → s.Due c rest →
          exec .pollNow s =
            .next
              (if (s.chan k).pending = true ∨
                  ((s.chan k).armed = true ∧ (s.chan k).settings.mode = .run ∧ (s.chan k).outstanding = true) ∨
                    ((s.chan k).armed = false ∧ (s.chan k).count = 0) then
                s.answered rest (c.answer .busy [])
              else
                (s.modChan k fun ch =>
                    { ch with pending := true, oneShot := if ch.armed = true then ch.oneShot else true }).answered
                  rest (c.answer .ok []))) ∧
      ∀ (c : Command) (channel action : Octet),
        c = Command.plain 0x52 tag [channel, action] → s.Due c rest →
          (7 < channel.toNat ∨ 2 < action.toNat) →
            exec .arm s = .next (s.answered rest (c.answer .range [])) ∧
              exec .mask s = .next (s.answered rest (c.answer .range [])) ∧
              exec .pollNow s = .next (s.answered rest (c.answer .range []))

/-- Write Script replaces an entry whatever the channels' state, refuses a count that does not fit its length octet
with LENGTH and a length of 0 or above 16 with RANGE; Read Script gives the entry back; Set Arbitration sets the mode
and answers with it and the rotation pointer, which R143 also says are no result octets: the answer with two is the
model's choice (log 32) (R130, R131, R132, R143, R192). -/
def Obligations.ScriptStoreAndArbitration : Prop :=
  ∀ (s : State) (rest : List Command) (tag : Octet) (k : EntryNo) (e : Script),
    (∀ c : Command,
        c = Command.plain 0x40 tag (natOctet k.val :: e.octets) → s.Due c rest →
          (1 ≤ e.payload.length → e.payload.length ≤ 16 →
              exec .writeScript s =
                .next
                  ({ s with poll := { s.poll with script := s.poll.script.set k e } }.answered rest
                    (c.answer .ok []))) ∧
            ((e.payload = [] ∨ (16 < e.payload.length ∧ e.payload.length ≤ 36)) →
              exec .writeScript s = .next (s.answered rest (c.answer .range [])))) ∧
      (∀ (c : Command) (a b d len : Octet) (payload : List Octet),
        c = Command.plain 0x40 tag (a :: b :: d :: len :: payload) → s.Due c rest →
          payload.length ≠ len.toNat → exec .writeScript s = .next (s.answered rest (c.answer .length []))) ∧
      (∀ c : Command,
        c = Command.plain 0x41 tag [natOctet k.val] → s.Due c rest →
          exec .readScript s = .next (s.answered rest (c.answer .ok (s.poll.script[k]).octets))) ∧
      ∀ (c : Command) (mode : ArbMode),
        c = Command.plain 0x53 tag [mode.octet] → s.Due c rest →
          exec .setArbitration s =
            .next
              ({ s with poll := { s.poll with mode := mode } }.answered rest
                (c.answer .ok [mode.octet, natOctet s.poll.pointer.val]))

/-! ### The commands of the part and of the Management Unit -/

/-- Read Ident gives the part code, the revision, the unit number, the last reset cause, the last wake source and the
Supervision Timer's settings; Read Buffer gives the free counts, the wake pointer and, for each line, its upstream
blocks, the lengths of its queues and its STARVED flag; both change nothing (R87, R165, R188, R193). -/
def Obligations.ReadIdentAndReadBuffer : Prop :=
  ∀ (s : State) (rest : List Command) (tag : Octet),
    (∀ c : Command,
        c = Command.plain 0x01 tag [] → s.Due c rest →
          exec .readIdent s =
            .next
              (s.answered rest
                (c.answer .ok
                  (halfOctets s.mgmt.ident.partCode ++ [s.mgmt.ident.revision] ++ wordOctets s.mgmt.ident.unit ++
                    [s.quiet.lastCause.octet, wakeOctet s.quiet.lastWake, s.sup.interval, s.sup.action.octet])))) ∧
      ∀ c : Command,
        c = Command.plain 0x60 tag [] → s.Due c rest →
          exec .readBuffer s =
            .next
              (s.answered rest
                (c.answer .ok
                  (halfOctets (BitVec.ofNat 16 s.buffer.freeBlocks.length) ++
                    [natOctet s.buffer.freeDescs.length, natOctet s.buffer.wakePtr.val] ++
                    ([0, 1, 2, 3, 4, 5, 6, 7] : List LineNo).flatMap fun n =>
                      [natOctet (s.line n).upBlocks, natOctet (s.line n).upQueue.length,
                        natOctet (s.line n).downQueue.length, if (s.line n).starved then 0x01 else 0x00])))

/-- Read Events gives the present conditions in the table's order, each with its code and count and with the value
that RESTARTED and WAKE hold, as many as fit in 60 result octets; those given become absent and the others keep their
counts; nothing else changes (R158, R159, R160, R161). -/
def Obligations.ReadEventsDrainsTheSummary : Prop :=
  ∀ (s : State) (rest : List Command) (tag : Octet) (c : Command),
    c = Command.plain 0x02 tag [] → s.Due c rest →
      let e := s.mgmt.events
      let entry : Condition → List Octet := fun x =>
        match e.count x with
        | none => []
        | some v =>
          [x.octet, v] ++ (if x = .restarted then [e.cause.octet] else []) ++
            (if x = .wake then [wakeOctet e.source] else [])
      ∃ (k : Nat) (counts : Vector (Option Octet) 30),
        exec .readEvents s =
            .next
              ({ s with mgmt := { s.mgmt with events := { e with counts := counts } } }.answered rest
                (c.answer .ok ((Condition.all.take k).flatMap entry))) ∧
          ((Condition.all.take k).flatMap entry).length ≤ 60 ∧
          (∀ x : Condition,
            counts[x.index] = if x ∈ Condition.all.take k then none else e.counts[x.index]) ∧
          ∀ (x : Condition) (xs : List Condition),
            Condition.all.drop k = x :: xs →
              (e.count x).isSome = true ∧ 60 < (((Condition.all.take k).flatMap entry) ++ entry x).length

/-- Read Counters gives a group's counters in order, and with the clear flag puts them at 0 in the same execution;
Reset with scope COUNTERS puts every counter at 0 and changes nothing else (R162, R163, R167, R188). -/
def Obligations.CountersAreReadAndCleared : Prop :=
  ∀ (s : State) (rest : List Command) (tag : Octet) (clear : Bool),
    let flag : Octet := if clear then 0x01 else 0x00
    (∀ (c : Command) (n : LineNo),
        c = Command.plain 0x03 tag [natOctet n.val, flag] → s.Due c rest →
          let k := (s.line n).counters
          exec .readCounters s =
            .next
              ((if clear then s.modLine n fun l => { l with counters := LineCounters.zero } else s).answered rest
                (c.answer .ok
                  ([k.characters, k.parity, k.framing, k.breaks, k.overruns, k.ignored, k.recordsClosed,
                      k.recordsTruncated, k.recordsSent, k.noReplies, k.late].flatMap halfOctets)))) ∧
      (∀ c : Command,
        c = Command.plain 0x03 tag [0x08, flag] → s.Due c rest →
          let f := s.framer
          exec .readCounters s =
            .next
              ((if clear then
                  { s with framer := { f with badFrames := 0, alignLosses := 0, slips := 0, restarts := 0 } }
                else s).answered
                rest (c.answer .ok ([f.badFrames, f.alignLosses, f.slips, f.restarts].flatMap halfOctets)))) ∧
      (∀ c : Command,
        c = Command.plain 0x03 tag [0x09, flag] → s.Due c rest →
          let k := s.parser.discards
          exec .readCounters s =
            .next
              ((if clear then { s with parser := { s.parser with discards := DiscardCounters.zero } } else s).answered
                rest
                (c.answer .ok
                  ([k.badKind, k.badLength, k.unknownStation, k.downDisabled, k.lineOff, k.queueFull, k.noBuffer,
                      k.interrupted].flatMap halfOctets)))) ∧
      (∀ c : Command,
        c = Command.plain 0x03 tag [0x0A, flag] → s.Due c rest →
          exec .readCounters s =
            .next
              ((if clear then { s with mgmt := { s.mgmt with accepted := 0, discarded := 0 } } else s).answered rest
                (c.answer .ok ([s.mgmt.accepted, s.mgmt.discarded].flatMap halfOctets)))) ∧
      ∀ c : Command,
        c = Command.plain 0x04 tag [0x03] → s.Due c rest →
          exec .resetCounters s =
            .next
              ({ (s.mapLines fun l => { l with counters := LineCounters.zero }).mapChans fun ch =>
                    { ch with missed := 0 } with
                  framer := { s.framer with badFrames := 0, alignLosses := 0, slips := 0, restarts := 0 }
                  parser := { s.parser with discards := DiscardCounters.zero }
                  mgmt := { s.mgmt with accepted := 0, discarded := 0 } }.answered
                rest (c.answer .ok []))

/-- Reset of DEVICE scope is answered and waits for its response's end while transmit-enable holds, and takes place at
once, unanswered, while it does not; Reset of LINES scope empties the lines, the Shared Buffer, the channels, the
command buffer and the Response Queue but for a response being sent, and keeps the parameters, the tables, the
counters and the Supervision Timer's settings; a downstream record under construction is discarded INTERRUPTED with
DOWN_DISCARD raised, and the rest of the Event Summary is kept; the line streams wait for its response's end (R40,
R71, R75, R89, R104, R105, R107, R114, R115, R127, R129, R150, R156, R166, R168, R170, R171). Of the state after
either reset: that the framer takes its values at once at a DEVICE reset is the model's reading (log 27); that the
one-bit rest of every line is over is its reading too (log 15), and its choices are the order of the free lists (log
9), the Shared Buffer's octets, which are kept (log 10), the values of the receive bookkeeping, of highWait and of the
levels of LnTX that the manual does not give (log 25), and the frame last sent whole, which is kept (log 8). -/
def Obligations.ResetCommands : Prop :=
  ∀ (s : State) (rest : List Command) (tag : Octet),
    (∀ c : Command,
        c = Command.plain 0x04 tag [0x01] → s.Due c rest →
          (s.framer.transmitEnable = true →
              exec .resetDevice s =
                .next
                  ({ s with mgmt := { s.mgmt with exec := .awaitingReset } }.answered rest
                    { c.answer .ok [] with governs := .deviceReset })) ∧
            (s.framer.transmitEnable = false →
              exec .resetDevice s = .next (s.afterFullReset .command))) ∧
      ∀ c : Command,
        c = Command.plain 0x04 tag [0x02] → s.Due c rest →
          ∃ t : State,
            exec .resetLines s = .next (t.replied { c.answer .ok [] with governs := .lineRelease }) ∧
              (∀ n : LineNo,
                t.line n =
                  { Line.reset with
                    params := (s.line n).params, counters := (s.line n).counters, pos := .restartPending }) ∧
              (∀ k : ChannelNo,
                t.chan k =
                  { settings := (s.chan k).settings, armed := false, pending := false, oneShot := false
                    current := (s.chan k).settings.baseIndex, count := (s.chan k).settings.baseCount
                    counter := none, outstanding := false, runInProgress := false, outcome := .none
                    missed := (s.chan k).missed }) ∧
              t.buffer = { Buffer.reset with cells := s.buffer.cells } ∧
              t.serializer = { mgmtPos := s.serializer.mgmtPos, lineHold := .inForce } ∧
              t.mgmt.parse = .waitRestart ∧ t.mgmt.cib = [] ∧
              ((∃ k, s.serializer.mgmtPos = .sending k) →
                t.mgmt.responses = (s.mgmt.responses.take 1).map fun r => { r with governs := .nothing }) ∧
              ((∀ k, s.serializer.mgmtPos ≠ .sending k) → t.mgmt.responses = []) ∧
              (s.parser.parse = .waitRestart ∨ s.parser.parse = .between ∨ (∃ k, s.parser.parse = .skip k) →
                t.parser = s.parser ∧ t.mgmt.events = s.mgmt.events) ∧
              (((∃ k l, s.parser.parse = .header k l) ∨ ∃ r k, s.parser.parse = .payload r k) →
                t.mgmt.events = (s.raise .downDiscard).mgmt.events) ∧
              (∀ (k : DownKind) (l : Option Nat),
                s.parser.parse = .header k l →
                  t.parser.parse = .skip (l.map fun len => len + 1) ∧
                    t.parser.discards =
                      { s.parser.discards with interrupted := satInc s.parser.discards.interrupted }) ∧
              (∀ (r : DownRecord) (k : Nat),
                s.parser.parse = .payload r k → k < r.length →
                  t.parser.parse = .skip (some (r.length - k)) ∧
                    t.parser.discards =
                      { s.parser.discards with interrupted := satInc s.parser.discards.interrupted }) ∧
              t.framer = s.framer ∧ t.stations = s.stations ∧ t.slots = s.slots ∧
              t.poll.script = s.poll.script ∧ t.poll.mode = s.poll.mode ∧ t.poll.pointer = s.poll.pointer ∧
              t.quiet = s.quiet ∧ t.sup = s.sup ∧ t.mgmt.exec = s.mgmt.exec ∧
              t.mgmt.accepted = s.mgmt.accepted ∧ t.mgmt.discarded = s.mgmt.discarded ∧ t.mgmt.ident = s.mgmt.ident

/-- Set Supervision stores the interval and the action, and its own execution loads the timer with the new interval or
stops it; Enter Quiet is BUSY during a reply wait, while a record is being sent, while a channel is outstanding and
while transmit-enable does not hold, and otherwise stores the wake-on-trunk flag, sets every Quiet hold and waits for
the end of its response (R173, R174, R176). -/
def Obligations.SetSupervisionAndEnterQuiet : Prop :=
  ∀ (s : State) (rest : List Command) (tag : Octet),
    (∀ (c : Command) (interval action : Octet),
        c = Command.plain 0x05 tag [interval, action] → s.Due c rest → action.toNat ≤ 1 →
          exec .setSupervision s =
            .next
              { s with
                mgmt := { s.mgmt with cib := rest, responses := s.mgmt.responses ++ [c.answer .ok []] }
                sup :=
                  { interval := interval, action := if action = 0x01 then .reset else .hold
                    timer := if interval = 0 then none else some (1000 * interval.toNat) } }) ∧
      ∀ (c : Command) (wake : Octet),
        c = Command.plain 0x06 tag [wake] → s.Due c rest → wake.toNat ≤ 1 →
          let busy :=
            (∃ n : LineNo, (s.line n).wait.isSome = true ∨ (s.line n).sending = true) ∨
              (∃ k : ChannelNo, (s.chan k).outstanding = true) ∨ s.framer.transmitEnable = false
          (busy → exec .enterQuiet s = .next (s.answered rest (c.answer .busy []))) ∧
            (¬busy →
              exec .enterQuiet s =
                .next
                  ({ s.mapLines fun l => { l with quietHold := true } with
                      quiet := { s.quiet with wakeOnTrunk := decide (wake = 0x01) }
                      mgmt := { s.mgmt with exec := .awaitingQuiet } }.answered
                    rest { c.answer .ok [] with governs := .quietEntry }))

/-- A code that names no command is refused UNKNOWN and an overlength record LENGTH, whatever its code; a command
whose parameter count is not its own is refused LENGTH before any other check; a refused command changes nothing but
to be answered (R152, R155, R157, R186, R187). That each of the three rows of Reset and of Poll Control answers a
miscounted command is the model's choice (log 2). -/
def Obligations.UnknownAndMiscountedCommands : Prop :=
  ∀ (s : State) (rest : List Command) (c : Command),
    s.Due c rest →
      (c.overlength = false →
        c.code ∉
            ([0x01, 0x02, 0x03, 0x04, 0x05, 0x06, 0x10, 0x11, 0x12, 0x20, 0x21, 0x22, 0x30, 0x31, 0x32, 0x40, 0x41,
                0x50, 0x51, 0x52, 0x53, 0x60] : List Octet) →
          exec .unknownCommand s = .next (s.answered rest (c.answer .unknown []))) ∧
        (c.overlength = true → exec .overlengthCommand s = .next (s.answered rest (c.answer .length []))) ∧
        (∀ (i : Instr) (count : Nat),
          (i, c.code, count) ∈
              ([(.readIdent, 0x01, 0), (.readEvents, 0x02, 0), (.readCounters, 0x03, 2), (.resetDevice, 0x04, 1),
                  (.resetLines, 0x04, 1), (.resetCounters, 0x04, 1), (.setSupervision, 0x05, 2),
                  (.enterQuiet, 0x06, 1), (.setLine, 0x10, 12), (.readLine, 0x11, 1), (.lineControl, 0x12, 4),
                  (.writeStation, 0x20, 7), (.invalidateStation, 0x21, 1), (.readStation, 0x22, 1),
                  (.writeSlot, 0x30, 4), (.readSlot, 0x31, 2), (.swapBanks, 0x32, 0), (.readScript, 0x41, 1),
                  (.setChannel, 0x50, 10), (.readChannel, 0x51, 1), (.arm, 0x52, 2), (.mask, 0x52, 2),
                  (.pollNow, 0x52, 2), (.setArbitration, 0x53, 1), (.readBuffer, 0x60, 0)] :
                List (Instr × Octet × Nat)) →
            c.overlength = false → c.params.length ≠ count →
              exec i s = .next (s.answered rest (c.answer .length []))) ∧
        (c.overlength = false → c.code = 0x40 → c.params.length < 4 →
          exec .writeScript s = .next (s.answered rest (c.answer .length [])))

/-- A command whose count is right and one of whose values is outside its range is refused RANGE and changes nothing
but to be answered (R22, R23, R46, R92, R131, R132, R134, R135, R143, R157, R162, R170, R174, R176). That each of the
three rows of Reset answers a scope out of range is the model's choice (log 2). -/
def Obligations.ValuesOutOfRangeAreRefused : Prop :=
  ∀ (s : State) (rest : List Command) (tag a b : Octet) (v : List Octet),
    (∀ (i : Instr) (code : Octet) (limit : Nat),
        (i, code, limit) ∈
            ([(.enterQuiet, 0x06, 2), (.readLine, 0x11, 8), (.readScript, 0x41, 64), (.readChannel, 0x51, 8),
                (.setArbitration, 0x53, 2)] :
              List (Instr × Octet × Nat)) →
          ∀ c : Command,
            c = Command.plain code tag [a] → s.Due c rest → limit ≤ a.toNat →
              exec i s = .next (s.answered rest (c.answer .range []))) ∧
      (∀ c : Command,
        c = Command.plain 0x03 tag [a, b] → s.Due c rest → (10 < a.toNat ∨ 1 < b.toNat) →
          exec .readCounters s = .next (s.answered rest (c.answer .range []))) ∧
      (∀ c : Command,
        c = Command.plain 0x04 tag [a] → s.Due c rest → (a = 0x00 ∨ 3 < a.toNat) →
          exec .resetDevice s = .next (s.answered rest (c.answer .range [])) ∧
            exec .resetLines s = .next (s.answered rest (c.answer .range [])) ∧
            exec .resetCounters s = .next (s.answered rest (c.answer .range []))) ∧
      (∀ c : Command,
        c = Command.plain 0x05 tag [a, b] → s.Due c rest → 1 < b.toNat →
          exec .setSupervision s = .next (s.answered rest (c.answer .range []))) ∧
      (∀ c : Command,
        c = Command.plain 0x31 tag [a, b] → s.Due c rest → (1 < a.toNat ∨ 27 < b.toNat) →
          exec .readSlot s = .next (s.answered rest (c.answer .range []))) ∧
      (∀ c : Command,
        c = Command.plain 0x10 tag v → s.Due c rest → v.length = 12 →
          (∀ (n : LineNo) (p : LineParams), p.Lawful → v ≠ natOctet n.val :: p.octets) →
            exec .setLine s = .next (s.answered rest (c.answer .range []))) ∧
      (∀ c : Command,
        c = Command.plain 0x20 tag v → s.Due c rest → v.length = 7 →
          (∀ (station : Octet) (e : Station), v ≠ station :: e.octets) →
            exec .writeStation s = .next (s.answered rest (c.answer .range []))) ∧
      (∀ c : Command,
        c = Command.plain 0x50 tag v → s.Due c rest → v.length = 10 →
          (∀ (k : ChannelNo) (p : ChannelSettings),
            p.Lawful →
              v ≠
                [natOctet k.val, natOctet p.target.val, natOctet p.baseIndex.val, natOctet p.baseCount,
                    p.step.octet, p.mode.octet, if p.reload then 0x01 else 0x00, p.trigger.octet] ++
                  halfOctets (BitVec.ofNat 16 p.interval)) →
            exec .setChannel s = .next (s.answered rest (c.answer .range []))) ∧
      ∀ (c : Command) (d len : Octet),
        c = Command.plain 0x40 tag (a :: d :: b :: len :: v) → s.Due c rest → v.length = len.toNat →
          (63 < a.toNat ∨ 1 < b.toNat ∨ len = 0x00 ∨ 16 < len.toNat) →
            exec .writeScript s = .next (s.answered rest (c.answer .range []))

/-! ### Resets, supervision and wakes -/

/-- A power-on or pin reset holds the part at its full reset values, with the frame in progress cut off, and its end
leaves it working; RESTARTED with its cause alone is then present, and the cause is the last reset cause; a pin reset
during a power-on reset stays a power-on reset, and a power-on reset during a pin reset is one (R20, R168, R169, R172,
R181). That the end of a reset changes nothing in a part that is not held is the model's choice (log 1). Of the state
after these resets: that the blocks hold the values while the part is held is the model's reading (log 23); that the
one-bit rest of every line is over is its reading too (log 15), and its choices are the order of the free lists (log
9), the Shared Buffer's octets, which are kept (log 10), the values of the receive bookkeeping, of highWait and of the
levels of LnTX that the manual does not give (log 25), and the frame last sent whole, which is kept (log 8). -/
def Obligations.PowerOnAndPinResets : Prop :=
  ∀ s : State,
    let heldReset : Held → Cause → State := fun h c =>
      { s.afterFullReset c with
        held := h, framer := { State.reset.framer with lastFrame := s.framer.lastFrame } }
    exec .powerOnReset s = .next (heldReset .power .power) ∧
      (s.held ≠ .power → exec .pinReset s = .next (heldReset .pin .pin)) ∧
      (s.held = .power → exec .pinReset s = .next s) ∧
      (s.held = .pin → exec .resetEnd s = .next (s.afterFullReset .pin)) ∧
      (s.held = .power → exec .resetEnd s = .next (s.afterFullReset .power)) ∧
      (s.held = .no → exec .resetEnd s = .next s) ∧
      ∀ (cause : Cause) (t : State),
        t = s.afterFullReset cause →
          (∀ c : Condition, t.mgmt.events.count c = if c = .restarted then some 1 else none) ∧
            t.mgmt.events.cause = cause ∧ t.quiet.lastCause = cause ∧ t.held = .no ∧
            t.framer.rx = .search ∧ t.framer.running = false ∧ t.framer.txNumber = 0

/-- The Supervision Timer expires when its remaining time has reached zero: HOLD masks every channel where it stands,
raises SUPERVISION and stops the timer; RESET is a full reset whose cause is SUPERVISION; a timer with time left, as
after a command execution that came first, does not expire (R173, R175). Of the state after the reset: that the framer
takes its reset values while its frame goes on is the model's reading (log 27); that the one-bit rest of every line is
over is its reading too (log 15), and its choices are the order of the free lists (log 9), the Shared Buffer's octets,
which are kept (log 10), the values of the receive bookkeeping, of highWait and of the levels of LnTX that the manual
does not give (log 25), and the frame last sent whole, which is kept (log 8). -/
def Obligations.SupervisionExpiryHoldsOrResets : Prop :=
  ∀ s : State,
    (s.sup.timer = some 0 → s.quiet.flag = false → s.sup.action = .hold →
        exec .supervisionExpiry s =
          .next
            ({ s.mapChans fun c =>
                  { c with
                    armed := false, pending := false, oneShot := false, runInProgress := false, counter := none } with
                sup := { s.sup with timer := none } }.raise
              .supervision)) ∧
      (s.sup.timer = some 0 → s.quiet.flag = false → s.sup.action = .reset →
        exec .supervisionExpiry s = .next (s.afterFullReset .supervision)) ∧
      ∀ ms : Nat, s.sup.timer = some (ms + 1) → exec .supervisionExpiry s = .next s

/-- A wake: the QUIET flag clears, the source is recorded and WAKE raised with it, the framer is in SEARCH with frame
0 next, every WATCH receiver is in SETTLE for a character time, every Quiet hold and rest is over, the execution state
is READY, and each transmitter then begins its head record; no wake happens on a line or trunk that may not wake the
part (R11, R38, R128, R178, R179, R180). That the transmitters are taken in the order 0 to 7 is the model's choice
(log 13), and that the one-bit rest is over at a wake its reading (log 15). -/
def Obligations.WakesEndTheQuietState : Prop :=
  ∀ (s : State) (n : LineNo),
    let woken : WakeSource → State := fun source =>
      { s.mapLines fun l =>
          if l.rx = .watch then
            { l with rx := .settle, highWait := some l.params.charBits, quietHold := false, resting := false }
          else { l with quietHold := false, resting := false } with
        framer :=
          { s.framer with
            rx := .search, recent := [], candidates := [], rxBits := [], goodCount := 0, badCount := 0
            expected := 0, farAlarm := true, running := false, txNumber := 0 }
        quiet := { s.quiet with flag := false, lastWake := some source }
        mgmt :=
          { s.mgmt with
            exec := .ready
            events :=
              { s.mgmt.events with
                source := some source
                counts :=
                  s.mgmt.events.counts.set Condition.wake.index
                    (raisedCount (s.mgmt.events.count .wake)) } } }
    (s.quiet.flag = true → s.quiet.wakeOnTrunk = true →
        exec .trunkWake s =
          .next (([0, 1, 2, 3, 4, 5, 6, 7] : List LineNo).foldl State.tryBegin (woken .trunk))) ∧
      ((s.quiet.flag = false ∨ s.quiet.wakeOnTrunk = false) → exec .trunkWake s = .next s) ∧
      (s.quiet.flag = true → (s.line n).rx = .watch → (s.line n).params.wake = true →
        exec (.lineWake n) s =
          .next (([0, 1, 2, 3, 4, 5, 6, 7] : List LineNo).foldl State.tryBegin (woken (.line n)))) ∧
      ((s.quiet.flag = false ∨ (s.line n).rx ≠ .watch ∨ (s.line n).params.wake = false) →
        exec (.lineWake n) s = .next s)

/-- A command whose event cannot arise in a state leaves the state as it is, and so does a row of a management command
while no command is due, or while the command at the head is not the row's: it is overlength, has another code,
carries another Line Control action, or is a Reset or a Poll Control whose scope or action is another row's. The row
of an unknown code executes neither an overlength record nor a known command, and the row of overlength records
nothing else. The model's choice (log 1, log 2). -/
def Obligations.WhatCannotAriseChangesNothing : Prop :=
  ∀ s : State,
    (s.held ≠ .no ∨ s.framer.rx = .quiet ∨ (s.framer.txOctets ≠ [] ∧ s.framer.txOctets.length ≠ 31) →
        exec .upstreamFrameStart s = .next s) ∧
      (s.framer.txOctets.length < 2 ∨ 30 ≤ s.framer.txOctets.length → exec .upstreamDataSlot s = .next s) ∧
      (s.framer.txOctets.length ≠ 30 → exec .managementSlot s = .next s) ∧
      (s.framer.rx ≠ .quiet ∨ s.quiet.flag = true ∨ s.framer.txOctets.length ≠ 31 →
        exec .quietEntry s = .next s) ∧
      (∀ (bits : List Bool) (octets : List Octet),
        s.held ≠ .no ∨ s.framer.rx = .quiet ∨ (bits = [] ∧ octets = []) →
          exec (.downstreamFrameJudged bits octets) s = .next s) ∧
      (∀ n : LineNo,
        (∀ samples, (s.line n).rx ≠ .receiving → exec (.characterComplete n samples) s = .next s) ∧
          ((s.line n).gapTimer = none → exec (.gapExpiry n) s = .next s) ∧
          ((s.line n).wait = none ∨ (∃ w, (s.line n).wait = some w ∧ (w.begun = true ∨ w.timer ≠ some 0)) →
            exec (.replyTimeout n) s = .next s) ∧
          ((s.line n).sending = false ∨ (s.line n).downQueue = [] → exec (.transmitRecordEnd n) s = .next s)) ∧
      ((s.sup.timer ≠ some 0 ∨ s.quiet.flag = true) → exec .supervisionExpiry s = .next s) ∧
      ((s.mgmt.cib = [] ∨ 4 ≤ s.mgmt.responses.length ∨ s.mgmt.exec ≠ .ready) →
        ∀ i ∈
          ([.readIdent, .readEvents, .readCounters, .resetDevice, .resetLines, .resetCounters, .setSupervision,
              .enterQuiet, .setLine, .readLine, .receiverOn, .receiverOff, .transmitterOn, .transmitterOff, .flush,
              .writeStation, .invalidateStation, .readStation, .writeSlot, .readSlot, .swapBanks, .writeScript,
              .readScript, .setChannel, .readChannel, .arm, .mask, .pollNow, .setArbitration, .readBuffer,
              .unknownCommand, .overlengthCommand, .lineControl] :
            List Instr),
          exec i s = .next s) ∧
      ∀ (c : Command) (rest : List Command),
        s.mgmt.cib = c :: rest →
          (∀ (i : Instr) (code : Octet),
              (i, code) ∈
                  ([(.readIdent, 0x01), (.readEvents, 0x02), (.readCounters, 0x03), (.resetDevice, 0x04),
                      (.resetLines, 0x04), (.resetCounters, 0x04), (.setSupervision, 0x05), (.enterQuiet, 0x06),
                      (.setLine, 0x10), (.readLine, 0x11), (.lineControl, 0x12), (.receiverOn, 0x12),
                      (.receiverOff, 0x12), (.transmitterOn, 0x12), (.transmitterOff, 0x12), (.flush, 0x12),
                      (.writeStation, 0x20), (.invalidateStation, 0x21), (.readStation, 0x22), (.writeSlot, 0x30),
                      (.readSlot, 0x31), (.swapBanks, 0x32), (.writeScript, 0x40), (.readScript, 0x41),
                      (.setChannel, 0x50), (.readChannel, 0x51), (.arm, 0x52), (.mask, 0x52), (.pollNow, 0x52),
                      (.setArbitration, 0x53), (.readBuffer, 0x60)] :
                    List (Instr × Octet)) →
                (c.overlength = true ∨ c.code ≠ code) → exec i s = .next s) ∧
            ((c.overlength = true ∨
                c.code ∈
                  ([0x01, 0x02, 0x03, 0x04, 0x05, 0x06, 0x10, 0x11, 0x12, 0x20, 0x21, 0x22, 0x30, 0x31, 0x32, 0x40,
                      0x41, 0x50, 0x51, 0x52, 0x53, 0x60] : List Octet)) →
              exec .unknownCommand s = .next s) ∧
            (c.overlength = false → exec .overlengthCommand s = .next s) ∧
            (∀ (i : Instr) (place : Nat) (action : Octet),
              (i, place, action) ∈
                  ([(.receiverOn, 1, 0x01), (.receiverOff, 1, 0x02), (.transmitterOn, 2, 0x01),
                      (.transmitterOff, 2, 0x02), (.flush, 3, 0x01)] : List (Instr × Nat × Octet)) →
                c.params[place]? ≠ some action → exec i s = .next s) ∧
            (∀ (i : Instr) (scope o : Octet),
              (i, scope) ∈
                  ([(.resetDevice, 0x01), (.resetLines, 0x02), (.resetCounters, 0x03)] : List (Instr × Octet)) →
                c.params = [o] → 1 ≤ o.toNat → o.toNat ≤ 3 → o ≠ scope → exec i s = .next s) ∧
            ∀ (i : Instr) (action channel o : Octet),
              (i, action) ∈ ([(.arm, 0x00), (.mask, 0x01), (.pollNow, 0x02)] : List (Instr × Octet)) →
                c.params = [channel, o] → channel.toNat ≤ 7 → o.toNat ≤ 2 → o ≠ action → exec i s = .next s

/-! ### What every step keeps -/

/-- Every step keeps the octets of the Shared Buffer in canonical form. The form is the model's own way of holding
them, over the octet an unwritten place reads as (log 10); the manual says nothing of it. -/
def Obligations.StepKeepsTheBufferCanonical : Prop :=
  ∀ s t : State, s.CellsCanonical → step s = .next t → t.CellsCanonical

/-- Every step keeps each of the 512 blocks and of the 192 descriptors in exactly one place: in its free list, or held
by one record once (R76, R80, R83, R89). -/
def Obligations.StepConservesTheStorage : Prop :=
  ∀ s t : State, s.StorageConserved → step s = .next t → t.StorageConserved

/-- Every step keeps each line's upstream blocks within its quota, and each queue of bounded size within its size: 16
downstream records and 4 staged characters a line, 4 commands and 4 responses (R28, R78, R82, R116, R153, R158). -/
def Obligations.StepKeepsQueuesAndQuotas : Prop :=
  (∀ s t : State, s.QueuesBounded → step s = .next t → t.QueuesBounded) ∧
    ∀ s t : State, s.QuotasKept → step s = .next t → t.QuotasKept

/-- Every step keeps the Station Table free of two valid entries with one line and local address, and every selected
station valid, on its line and with upstream capture (R45, R46). -/
def Obligations.StepKeepsTheStationLaws : Prop :=
  (∀ s t : State, s.StationsUnique → step s = .next t → t.StationsUnique) ∧
    ∀ s t : State, s.SelectionsHold → step s = .next t → t.SelectionsHold

/-- Every step keeps a channel's count within its base count, and at least 1 while the channel is ARMED, and at most
one outstanding channel on a line; and each line has at most one poll-issued record that is queued, being sent or
awaiting its reply, whose channel, and no other, is outstanding with that line as its target (R108, R133, R141, R145,
R148). The last is stated of states that keep TransmittersSound, which every step keeps
(StepKeepsTransmittersAndAssemblers). -/
def Obligations.StepKeepsTheChannelLaws : Prop :=
  (∀ s t : State, s.CountsLawful → step s = .next t → t.CountsLawful) ∧
    (∀ s t : State, s.OnePollPerLine → step s = .next t → t.OnePollPerLine) ∧
    ∀ s t : State, s.TransmittersSound → s.PollRecordsSound → step s = .next t → t.PollRecordsSound

/-- Every step keeps an OFF transmitter without work, a sending one with its record and without a wait, a reply with
its begun wait; a starved line without an open record, and the gap timer running exactly while there is an open record
or a continuation marking, which are not both there (R58, R59, R63, R66, R116, R120, R125). -/
def Obligations.StepKeepsTransmittersAndAssemblers : Prop :=
  (∀ s t : State, s.TransmittersSound → step s = .next t → t.TransmittersSound) ∧
    ∀ s t : State, s.AssemblersSound → step s = .next t → t.AssemblersSound

/-- Every step keeps the upstream streams from RUNNING while transmit-enable does not hold, and every present
condition's count from being 0. Raising a condition makes an absent one present with a count of 1 and raises the count
of a present one, which stops at 255, and changes nothing else; a 16-bit counter that rises stops at 65535 (R13, R14,
R159; 00_scope.md, Counters and counts). -/
def Obligations.StepKeepsStreamsAndEvents : Prop :=
  (∀ s t : State, s.StreamsEnabled → step s = .next t → t.StreamsEnabled) ∧
    (∀ s t : State, s.EventsCounted → step s = .next t → t.EventsCounted) ∧
    (∀ (s : State) (c x : Condition),
      let before := s.mgmt.events.count
      let after := (s.raise c).mgmt.events.count
      (before c = none → after c = some 1) ∧
        (∀ v : Octet, before c = some v → ∃ w : Octet, after c = some w ∧ w.toNat = min (v.toNat + 1) 255) ∧
        (x ≠ c → after x = before x) ∧
        raisedCount (before c) = after c ∧
        s.raise c =
          { s with
            mgmt :=
              { s.mgmt with
                events := { s.mgmt.events with counts := (s.raise c).mgmt.events.counts } } }) ∧
    ∀ v : Half, (satInc v).toNat = min (v.toNat + 1) 65535

/-- After reset every standing law holds. -/
def Obligations.ResetObeysEveryLaw : Prop :=
  State.reset.CellsCanonical ∧ State.reset.StorageConserved ∧ State.reset.QueuesBounded ∧
    State.reset.QuotasKept ∧ State.reset.StationsUnique ∧ State.reset.SelectionsHold ∧
    State.reset.CountsLawful ∧ State.reset.OnePollPerLine ∧ State.reset.PollRecordsSound ∧
    State.reset.TransmittersSound ∧ State.reset.AssemblersSound ∧ State.reset.StreamsEnabled ∧ State.reset.EventsCounted

end Statements
end

