-- ==== Sys2Proof/Laws/State.lean ====
section
/-! SUPPORT. One lemma for each field and each update of the state, and what the accessors of lines, channels and stations read after an update. -/

namespace Sys2Proof.Machine

/-! ### One line changed -/

@[simp] theorem State.modLine_held (s : State) (n : LineNo) (f : Line → Line) : (s.modLine n f).held = s.held := rfl
@[simp] theorem State.modLine_framer (s : State) (n : LineNo) (f : Line → Line) : (s.modLine n f).framer = s.framer := rfl
@[simp] theorem State.modLine_stations (s : State) (n : LineNo) (f : Line → Line) : (s.modLine n f).stations = s.stations := rfl
@[simp] theorem State.modLine_buffer (s : State) (n : LineNo) (f : Line → Line) : (s.modLine n f).buffer = s.buffer := rfl
@[simp] theorem State.modLine_slots (s : State) (n : LineNo) (f : Line → Line) : (s.modLine n f).slots = s.slots := rfl
@[simp] theorem State.modLine_serializer (s : State) (n : LineNo) (f : Line → Line) : (s.modLine n f).serializer = s.serializer := rfl
@[simp] theorem State.modLine_parser (s : State) (n : LineNo) (f : Line → Line) : (s.modLine n f).parser = s.parser := rfl
@[simp] theorem State.modLine_poll (s : State) (n : LineNo) (f : Line → Line) : (s.modLine n f).poll = s.poll := rfl
@[simp] theorem State.modLine_mgmt (s : State) (n : LineNo) (f : Line → Line) : (s.modLine n f).mgmt = s.mgmt := rfl
@[simp] theorem State.modLine_quiet (s : State) (n : LineNo) (f : Line → Line) : (s.modLine n f).quiet = s.quiet := rfl
@[simp] theorem State.modLine_sup (s : State) (n : LineNo) (f : Line → Line) : (s.modLine n f).sup = s.sup := rfl
@[simp] theorem State.modLine_pending (s : State) (n : LineNo) (f : Line → Line) : (s.modLine n f).pending = s.pending := rfl
@[simp] theorem State.modLine_stations_at (s : State) (n : LineNo) (f : Line → Line) : (s.modLine n f).station = s.station := rfl
@[simp] theorem State.modLine_chan (s : State) (n : LineNo) (f : Line → Line) : (s.modLine n f).chan = s.chan := rfl

/-! ### Every line changed -/

@[simp] theorem State.mapLines_held (s : State) (f : Line → Line) : (s.mapLines f).held = s.held := rfl
@[simp] theorem State.mapLines_framer (s : State) (f : Line → Line) : (s.mapLines f).framer = s.framer := rfl
@[simp] theorem State.mapLines_stations (s : State) (f : Line → Line) : (s.mapLines f).stations = s.stations := rfl
@[simp] theorem State.mapLines_buffer (s : State) (f : Line → Line) : (s.mapLines f).buffer = s.buffer := rfl
@[simp] theorem State.mapLines_slots (s : State) (f : Line → Line) : (s.mapLines f).slots = s.slots := rfl
@[simp] theorem State.mapLines_serializer (s : State) (f : Line → Line) : (s.mapLines f).serializer = s.serializer := rfl
@[simp] theorem State.mapLines_parser (s : State) (f : Line → Line) : (s.mapLines f).parser = s.parser := rfl
@[simp] theorem State.mapLines_poll (s : State) (f : Line → Line) : (s.mapLines f).poll = s.poll := rfl
@[simp] theorem State.mapLines_mgmt (s : State) (f : Line → Line) : (s.mapLines f).mgmt = s.mgmt := rfl
@[simp] theorem State.mapLines_quiet (s : State) (f : Line → Line) : (s.mapLines f).quiet = s.quiet := rfl
@[simp] theorem State.mapLines_sup (s : State) (f : Line → Line) : (s.mapLines f).sup = s.sup := rfl
@[simp] theorem State.mapLines_pending (s : State) (f : Line → Line) : (s.mapLines f).pending = s.pending := rfl
@[simp] theorem State.mapLines_station (s : State) (f : Line → Line) : (s.mapLines f).station = s.station := rfl
@[simp] theorem State.mapLines_chan (s : State) (f : Line → Line) : (s.mapLines f).chan = s.chan := rfl

/-! ### One channel changed -/

@[simp] theorem State.modChan_held (s : State) (c : ChannelNo) (f : Channel → Channel) : (s.modChan c f).held = s.held := rfl
@[simp] theorem State.modChan_framer (s : State) (c : ChannelNo) (f : Channel → Channel) : (s.modChan c f).framer = s.framer := rfl
@[simp] theorem State.modChan_lines (s : State) (c : ChannelNo) (f : Channel → Channel) : (s.modChan c f).lines = s.lines := rfl
@[simp] theorem State.modChan_stations (s : State) (c : ChannelNo) (f : Channel → Channel) : (s.modChan c f).stations = s.stations := rfl
@[simp] theorem State.modChan_buffer (s : State) (c : ChannelNo) (f : Channel → Channel) : (s.modChan c f).buffer = s.buffer := rfl
@[simp] theorem State.modChan_slots (s : State) (c : ChannelNo) (f : Channel → Channel) : (s.modChan c f).slots = s.slots := rfl
@[simp] theorem State.modChan_serializer (s : State) (c : ChannelNo) (f : Channel → Channel) : (s.modChan c f).serializer = s.serializer := rfl
@[simp] theorem State.modChan_parser (s : State) (c : ChannelNo) (f : Channel → Channel) : (s.modChan c f).parser = s.parser := rfl
@[simp] theorem State.modChan_mgmt (s : State) (c : ChannelNo) (f : Channel → Channel) : (s.modChan c f).mgmt = s.mgmt := rfl
@[simp] theorem State.modChan_quiet (s : State) (c : ChannelNo) (f : Channel → Channel) : (s.modChan c f).quiet = s.quiet := rfl
@[simp] theorem State.modChan_sup (s : State) (c : ChannelNo) (f : Channel → Channel) : (s.modChan c f).sup = s.sup := rfl
@[simp] theorem State.modChan_pending (s : State) (c : ChannelNo) (f : Channel → Channel) : (s.modChan c f).pending = s.pending := rfl
@[simp] theorem State.modChan_script (s : State) (c : ChannelNo) (f : Channel → Channel) : (s.modChan c f).poll.script = s.poll.script := rfl
@[simp] theorem State.modChan_mode (s : State) (c : ChannelNo) (f : Channel → Channel) : (s.modChan c f).poll.mode = s.poll.mode := rfl
@[simp] theorem State.modChan_pointer (s : State) (c : ChannelNo) (f : Channel → Channel) : (s.modChan c f).poll.pointer = s.poll.pointer := rfl
@[simp] theorem State.modChan_line (s : State) (c : ChannelNo) (f : Channel → Channel) : (s.modChan c f).line = s.line := rfl
@[simp] theorem State.modChan_station (s : State) (c : ChannelNo) (f : Channel → Channel) : (s.modChan c f).station = s.station := rfl

/-! ### Every channel changed -/

@[simp] theorem State.mapChans_held (s : State) (f : Channel → Channel) : (s.mapChans f).held = s.held := rfl
@[simp] theorem State.mapChans_framer (s : State) (f : Channel → Channel) : (s.mapChans f).framer = s.framer := rfl
@[simp] theorem State.mapChans_lines (s : State) (f : Channel → Channel) : (s.mapChans f).lines = s.lines := rfl
@[simp] theorem State.mapChans_stations (s : State) (f : Channel → Channel) : (s.mapChans f).stations = s.stations := rfl
@[simp] theorem State.mapChans_buffer (s : State) (f : Channel → Channel) : (s.mapChans f).buffer = s.buffer := rfl
@[simp] theorem State.mapChans_slots (s : State) (f : Channel → Channel) : (s.mapChans f).slots = s.slots := rfl
@[simp] theorem State.mapChans_serializer (s : State) (f : Channel → Channel) : (s.mapChans f).serializer = s.serializer := rfl
@[simp] theorem State.mapChans_parser (s : State) (f : Channel → Channel) : (s.mapChans f).parser = s.parser := rfl
@[simp] theorem State.mapChans_mgmt (s : State) (f : Channel → Channel) : (s.mapChans f).mgmt = s.mgmt := rfl
@[simp] theorem State.mapChans_quiet (s : State) (f : Channel → Channel) : (s.mapChans f).quiet = s.quiet := rfl
@[simp] theorem State.mapChans_sup (s : State) (f : Channel → Channel) : (s.mapChans f).sup = s.sup := rfl
@[simp] theorem State.mapChans_pending (s : State) (f : Channel → Channel) : (s.mapChans f).pending = s.pending := rfl
@[simp] theorem State.mapChans_script (s : State) (f : Channel → Channel) : (s.mapChans f).poll.script = s.poll.script := rfl
@[simp] theorem State.mapChans_mode (s : State) (f : Channel → Channel) : (s.mapChans f).poll.mode = s.poll.mode := rfl
@[simp] theorem State.mapChans_pointer (s : State) (f : Channel → Channel) : (s.mapChans f).poll.pointer = s.poll.pointer := rfl
@[simp] theorem State.mapChans_line (s : State) (f : Channel → Channel) : (s.mapChans f).line = s.line := rfl
@[simp] theorem State.mapChans_station (s : State) (f : Channel → Channel) : (s.mapChans f).station = s.station := rfl

/-! ### A station entry replaced -/

@[simp] theorem State.setStation_held (s : State) (k : Octet) (e : Station) : (s.setStation k e).held = s.held := rfl
@[simp] theorem State.setStation_framer (s : State) (k : Octet) (e : Station) : (s.setStation k e).framer = s.framer := rfl
@[simp] theorem State.setStation_lines (s : State) (k : Octet) (e : Station) : (s.setStation k e).lines = s.lines := rfl
@[simp] theorem State.setStation_buffer (s : State) (k : Octet) (e : Station) : (s.setStation k e).buffer = s.buffer := rfl
@[simp] theorem State.setStation_slots (s : State) (k : Octet) (e : Station) : (s.setStation k e).slots = s.slots := rfl
@[simp] theorem State.setStation_serializer (s : State) (k : Octet) (e : Station) : (s.setStation k e).serializer = s.serializer := rfl
@[simp] theorem State.setStation_parser (s : State) (k : Octet) (e : Station) : (s.setStation k e).parser = s.parser := rfl
@[simp] theorem State.setStation_poll (s : State) (k : Octet) (e : Station) : (s.setStation k e).poll = s.poll := rfl
@[simp] theorem State.setStation_mgmt (s : State) (k : Octet) (e : Station) : (s.setStation k e).mgmt = s.mgmt := rfl
@[simp] theorem State.setStation_quiet (s : State) (k : Octet) (e : Station) : (s.setStation k e).quiet = s.quiet := rfl
@[simp] theorem State.setStation_sup (s : State) (k : Octet) (e : Station) : (s.setStation k e).sup = s.sup := rfl
@[simp] theorem State.setStation_pending (s : State) (k : Octet) (e : Station) : (s.setStation k e).pending = s.pending := rfl
@[simp] theorem State.setStation_line (s : State) (k : Octet) (e : Station) : (s.setStation k e).line = s.line := rfl
@[simp] theorem State.setStation_chan (s : State) (k : Octet) (e : Station) : (s.setStation k e).chan = s.chan := rfl

/-! ### A condition raised -/

@[simp] theorem State.raise_held (s : State) (c : Condition) : (s.raise c).held = s.held := rfl
@[simp] theorem State.raise_framer (s : State) (c : Condition) : (s.raise c).framer = s.framer := rfl
@[simp] theorem State.raise_lines (s : State) (c : Condition) : (s.raise c).lines = s.lines := rfl
@[simp] theorem State.raise_stations (s : State) (c : Condition) : (s.raise c).stations = s.stations := rfl
@[simp] theorem State.raise_buffer (s : State) (c : Condition) : (s.raise c).buffer = s.buffer := rfl
@[simp] theorem State.raise_slots (s : State) (c : Condition) : (s.raise c).slots = s.slots := rfl
@[simp] theorem State.raise_serializer (s : State) (c : Condition) : (s.raise c).serializer = s.serializer := rfl
@[simp] theorem State.raise_parser (s : State) (c : Condition) : (s.raise c).parser = s.parser := rfl
@[simp] theorem State.raise_poll (s : State) (c : Condition) : (s.raise c).poll = s.poll := rfl
@[simp] theorem State.raise_quiet (s : State) (c : Condition) : (s.raise c).quiet = s.quiet := rfl
@[simp] theorem State.raise_sup (s : State) (c : Condition) : (s.raise c).sup = s.sup := rfl
@[simp] theorem State.raise_pending (s : State) (c : Condition) : (s.raise c).pending = s.pending := rfl
@[simp] theorem State.raise_mgmt_parse (s : State) (c : Condition) : (s.raise c).mgmt.parse = s.mgmt.parse := rfl
@[simp] theorem State.raise_mgmt_cib (s : State) (c : Condition) : (s.raise c).mgmt.cib = s.mgmt.cib := rfl
@[simp] theorem State.raise_mgmt_exec (s : State) (c : Condition) : (s.raise c).mgmt.exec = s.mgmt.exec := rfl
@[simp] theorem State.raise_mgmt_responses (s : State) (c : Condition) : (s.raise c).mgmt.responses = s.mgmt.responses := rfl
@[simp] theorem State.raise_mgmt_accepted (s : State) (c : Condition) : (s.raise c).mgmt.accepted = s.mgmt.accepted := rfl
@[simp] theorem State.raise_mgmt_discarded (s : State) (c : Condition) : (s.raise c).mgmt.discarded = s.mgmt.discarded := rfl
@[simp] theorem State.raise_mgmt_ident (s : State) (c : Condition) : (s.raise c).mgmt.ident = s.mgmt.ident := rfl
@[simp] theorem State.raise_line (s : State) (c : Condition) : (s.raise c).line = s.line := rfl
@[simp] theorem State.raise_chan (s : State) (c : Condition) : (s.raise c).chan = s.chan := rfl
@[simp] theorem State.raise_station (s : State) (c : Condition) : (s.raise c).station = s.station := rfl
@[simp] theorem State.raise_events (s : State) (c : Condition) : (s.raise c).mgmt.events = s.mgmt.events.raise c := rfl

/-! ### The parse state of the Downstream Parser set -/

@[simp] theorem State.setParse_held (s : State) (p : DownParse) : (s.setParse p).held = s.held := rfl
@[simp] theorem State.setParse_framer (s : State) (p : DownParse) : (s.setParse p).framer = s.framer := rfl
@[simp] theorem State.setParse_lines (s : State) (p : DownParse) : (s.setParse p).lines = s.lines := rfl
@[simp] theorem State.setParse_stations (s : State) (p : DownParse) : (s.setParse p).stations = s.stations := rfl
@[simp] theorem State.setParse_buffer (s : State) (p : DownParse) : (s.setParse p).buffer = s.buffer := rfl
@[simp] theorem State.setParse_slots (s : State) (p : DownParse) : (s.setParse p).slots = s.slots := rfl
@[simp] theorem State.setParse_serializer (s : State) (p : DownParse) : (s.setParse p).serializer = s.serializer := rfl
@[simp] theorem State.setParse_poll (s : State) (p : DownParse) : (s.setParse p).poll = s.poll := rfl
@[simp] theorem State.setParse_mgmt (s : State) (p : DownParse) : (s.setParse p).mgmt = s.mgmt := rfl
@[simp] theorem State.setParse_quiet (s : State) (p : DownParse) : (s.setParse p).quiet = s.quiet := rfl
@[simp] theorem State.setParse_sup (s : State) (p : DownParse) : (s.setParse p).sup = s.sup := rfl
@[simp] theorem State.setParse_pending (s : State) (p : DownParse) : (s.setParse p).pending = s.pending := rfl
@[simp] theorem State.setParse_parse (s : State) (p : DownParse) : (s.setParse p).parser.parse = p := rfl
@[simp] theorem State.setParse_discards (s : State) (p : DownParse) : (s.setParse p).parser.discards = s.parser.discards := rfl
@[simp] theorem State.setParse_line (s : State) (p : DownParse) : (s.setParse p).line = s.line := rfl
@[simp] theorem State.setParse_chan (s : State) (p : DownParse) : (s.setParse p).chan = s.chan := rfl
@[simp] theorem State.setParse_station (s : State) (p : DownParse) : (s.setParse p).station = s.station := rfl

/-! ### The parse state of the command parser set -/

@[simp] theorem State.setCmdParse_held (s : State) (p : CmdParse) : (s.setCmdParse p).held = s.held := rfl
@[simp] theorem State.setCmdParse_framer (s : State) (p : CmdParse) : (s.setCmdParse p).framer = s.framer := rfl
@[simp] theorem State.setCmdParse_lines (s : State) (p : CmdParse) : (s.setCmdParse p).lines = s.lines := rfl
@[simp] theorem State.setCmdParse_stations (s : State) (p : CmdParse) : (s.setCmdParse p).stations = s.stations := rfl
@[simp] theorem State.setCmdParse_buffer (s : State) (p : CmdParse) : (s.setCmdParse p).buffer = s.buffer := rfl
@[simp] theorem State.setCmdParse_slots (s : State) (p : CmdParse) : (s.setCmdParse p).slots = s.slots := rfl
@[simp] theorem State.setCmdParse_serializer (s : State) (p : CmdParse) : (s.setCmdParse p).serializer = s.serializer := rfl
@[simp] theorem State.setCmdParse_parser (s : State) (p : CmdParse) : (s.setCmdParse p).parser = s.parser := rfl
@[simp] theorem State.setCmdParse_poll (s : State) (p : CmdParse) : (s.setCmdParse p).poll = s.poll := rfl
@[simp] theorem State.setCmdParse_quiet (s : State) (p : CmdParse) : (s.setCmdParse p).quiet = s.quiet := rfl
@[simp] theorem State.setCmdParse_sup (s : State) (p : CmdParse) : (s.setCmdParse p).sup = s.sup := rfl
@[simp] theorem State.setCmdParse_pending (s : State) (p : CmdParse) : (s.setCmdParse p).pending = s.pending := rfl
@[simp] theorem State.setCmdParse_mgmt_cib (s : State) (p : CmdParse) : (s.setCmdParse p).mgmt.cib = s.mgmt.cib := rfl
@[simp] theorem State.setCmdParse_mgmt_exec (s : State) (p : CmdParse) : (s.setCmdParse p).mgmt.exec = s.mgmt.exec := rfl
@[simp] theorem State.setCmdParse_mgmt_responses (s : State) (p : CmdParse) : (s.setCmdParse p).mgmt.responses = s.mgmt.responses := rfl
@[simp] theorem State.setCmdParse_mgmt_events (s : State) (p : CmdParse) : (s.setCmdParse p).mgmt.events = s.mgmt.events := rfl
@[simp] theorem State.setCmdParse_mgmt_accepted (s : State) (p : CmdParse) : (s.setCmdParse p).mgmt.accepted = s.mgmt.accepted := rfl
@[simp] theorem State.setCmdParse_mgmt_discarded (s : State) (p : CmdParse) : (s.setCmdParse p).mgmt.discarded = s.mgmt.discarded := rfl
@[simp] theorem State.setCmdParse_mgmt_ident (s : State) (p : CmdParse) : (s.setCmdParse p).mgmt.ident = s.mgmt.ident := rfl
@[simp] theorem State.setCmdParse_parse (s : State) (p : CmdParse) : (s.setCmdParse p).mgmt.parse = p := rfl
@[simp] theorem State.setCmdParse_line (s : State) (p : CmdParse) : (s.setCmdParse p).line = s.line := rfl
@[simp] theorem State.setCmdParse_chan (s : State) (p : CmdParse) : (s.setCmdParse p).chan = s.chan := rfl
@[simp] theorem State.setCmdParse_station (s : State) (p : CmdParse) : (s.setCmdParse p).station = s.station := rfl

/-! ### Reading after an update -/

@[simp] theorem State.modLine_line_self (s : State) (n : LineNo) (f : Line → Line) : (s.modLine n f).line n = f (s.line n) := by
  simp [State.modLine, State.line]

theorem State.modLine_line_ne (s : State) {n m : LineNo} (f : Line → Line) (h : n ≠ m) : (s.modLine n f).line m = s.line m := by
  have h' : n.val ≠ m.val := fun e => h (Fin.ext e)
  simp [State.modLine, State.line, Vector.getElem_set_ne, h']

theorem State.modLine_line (s : State) (n m : LineNo) (f : Line → Line) :
    (s.modLine n f).line m = if n = m then f (s.line n) else s.line m := by
  by_cases h : n = m
  · subst h; simp
  · simp [h, State.modLine_line_ne s f h]

@[simp] theorem State.mapLines_line (s : State) (f : Line → Line) (m : LineNo) : (s.mapLines f).line m = f (s.line m) := by
  simp [State.mapLines, State.line]

@[simp] theorem State.modChan_chan_self (s : State) (c : ChannelNo) (f : Channel → Channel) : (s.modChan c f).chan c = f (s.chan c) := by
  simp [State.modChan, State.chan]

theorem State.modChan_chan (s : State) (c d : ChannelNo) (f : Channel → Channel) :
    (s.modChan c f).chan d = if c = d then f (s.chan c) else s.chan d := by
  by_cases h : c = d
  · subst h; simp
  · have h' : c.val ≠ d.val := fun e => h (Fin.ext e)
    simp [h, State.modChan, State.chan, Vector.getElem_set_ne, h']

@[simp] theorem State.mapChans_chan (s : State) (f : Channel → Channel) (d : ChannelNo) : (s.mapChans f).chan d = f (s.chan d) := by
  simp [State.mapChans, State.chan]

theorem State.setStation_station (s : State) (k j : Octet) (e : Station) :
    (s.setStation k e).station j = if k = j then e else s.station j := by
  by_cases h : k = j
  · subst h; simp [State.setStation, State.station]
  · have h' : k.toNat ≠ j.toNat := fun q => h (BitVec.eq_of_toNat_eq q)
    simp [h, State.setStation, State.station, Vector.getElem_set_ne, h']

/-- Two changes that agree on the line as it is are one change. -/
theorem State.modLine_congr (s : State) (n : LineNo) {f g : Line → Line} (h : f (s.line n) = g (s.line n)) :
    s.modLine n f = s.modLine n g := by
  simp [State.modLine, h]

/-- A change that leaves the line as it is changes nothing. -/
theorem State.modLine_id (s : State) (n : LineNo) {f : Line → Line} (h : f (s.line n) = s.line n) : s.modLine n f = s := by
  have : s.lines.set n (s.line n) = s.lines := Vector.set_getElem_self n.isLt
  simp [State.modLine, h, this]

/-- Two changes of one channel that agree on the channel as it is are one change. -/
theorem State.modChan_congr (s : State) (c : ChannelNo) {f g : Channel → Channel} (h : f (s.chan c) = g (s.chan c)) :
    s.modChan c f = s.modChan c g := by
  simp [State.modChan, h]

/-- Raising a condition and changing a line commute. -/
theorem State.raise_modLine (s : State) (n : LineNo) (f : Line → Line) (c : Condition) :
    (s.raise c).modLine n f = (s.modLine n f).raise c := rfl

/-- Two changes of one line are one change. -/
theorem State.modLine_modLine (s : State) (n : LineNo) (f g : Line → Line) :
    (s.modLine n f).modLine n g = s.modLine n (g ∘ f) := by
  simp [State.modLine, State.line, Vector.set_set]

end Sys2Proof.Machine
end

