-- ==== Sys2Proof/Laws/Lines.lean ====
section
/-! SUPPORT. Line work: the one-line operations, and what is kept by taking the stage, by beginning to transmit, by serving a line, by the wake pass and by a release, said once from what the one-line operations keep. -/

namespace Sys2Proof.Machine

/-! ### What a property must survive -/

/-- A property that every one-line operation on line `n` keeps: closing and opening the record, filling it, clearing the
continuation marking, selecting a captured station and counting an ignored character. -/
structure KeptByItems (P : State → Prop) (n : LineNo) : Prop where
  close : ∀ s c, P s → P (s.closeRecord n c)
  clear : ∀ s, P s → P (s.clearCont n)
  opens : ∀ s st m t, (s.line n).openRec = none → P s → s.openRecord n st m = some t → P t
  grow : ∀ s r t, (s.line n).openRec = some r → P s → s.growRecord n r = some t → P t
  append : ∀ s e, P s → P (s.appendChar n e)
  select : ∀ s k, (∀ j, k = some j → ∃ a, s.reverse n a = some j) → P s → P (s.select n k)
  ignored : ∀ s, P s → P (s.ignored n)

theorem KeptByItems.turnAway {P : State → Prop} {n : LineNo} (h : KeptByItems P n) {s : State} (hs : P s) :
    P (s.turnAway n) := h.clear _ (h.close _ _ hs)

theorem KeptByItems.takeAddress {P : State → Prop} {n : LineNo} (h : KeptByItems P n) {s : State} (e : StageEntry)
    (hs : P s) : P (s.takeAddress n e) := by
  unfold State.takeAddress
  dsimp only
  split
  · rename_i k hk
    refine h.select _ _ (fun j hj => ⟨e.value, ?_⟩) (h.turnAway hs)
    cases hj
    split at hk
    · cases hk
    · exact hk
  · exact h.ignored _ (h.select _ _ (by simp) (h.turnAway hs))

theorem KeptByItems.takeData {P : State → Prop} {n : LineNo} (h : KeptByItems P n) {s t : State}
    {st : Option Octet} {m : Bool} {e : StageEntry} (hs : P s) (ht : s.takeData n st m e = some t) : P t := by
  unfold State.takeData at ht
  split at ht
  · rename_i r hr
    split at ht
    · obtain ⟨u, hu, rfl⟩ := Option.map_eq_some_iff.mp ht
      exact h.append _ _ (h.grow _ _ _ hr hs hu)
    · cases ht; exact h.append _ _ hs
  · rename_i hr
    obtain ⟨u, hu, rfl⟩ := Option.map_eq_some_iff.mp ht
    exact h.append _ _ (h.opens _ _ _ _ hr hs hu)

theorem KeptByItems.takeBreak {P : State → Prop} {n : LineNo} (h : KeptByItems P n) {s t : State}
    {st : Option Octet} {m : Bool} (hs : P s) (ht : s.takeBreak n st m = some t) : P t := by
  unfold State.takeBreak at ht
  split at ht
  · cases ht; exact h.close _ _ hs
  · rename_i hr
    obtain ⟨u, hu, rfl⟩ := Option.map_eq_some_iff.mp ht
    exact h.close _ _ (h.opens _ _ _ _ hr hs hu)

/-- What the one-line operations keep, taking an item of the stage order keeps. -/
theorem KeptByItems.takeItem {P : State → Prop} {n : LineNo} (h : KeptByItems P n) {s t : State} {m : Bool}
    {i : StageItem} (hs : P s) (ht : s.takeItem n m i = some t) : P t := by
  unfold State.takeItem at ht
  split at ht
  · unfold State.takeEntry at ht
    split at ht
    · split at ht
      · exact h.takeBreak hs ht
      · exact h.takeData hs ht
    · split at ht
      · cases ht; exact h.takeAddress _ hs
      · split at ht
        · cases ht; exact h.ignored _ hs
        · split at ht
          · obtain ⟨u, hu, rfl⟩ := Option.map_eq_some_iff.mp ht
            exact h.select _ _ (by simp) (h.takeBreak hs hu)
          · exact h.takeData hs ht
  · cases ht
    exact h.select _ _ (fun j hj => ⟨_, hj⟩) (h.turnAway hs)
  · cases ht; exact h.turnAway hs

/-! ### Taking the stage -/

/-- Taking the items in order ends with the stage empty, or with the first refused item at its head and the line
starved. -/
theorem State.takeItems_keeps {P Q : State → Prop} {n : LineNo} (items : List StageItem)
    (item : ∀ s m i t, P s → s.takeItem n m i = some t → P t)
    (done : ∀ s, P s → Q (s.modLine n fun l => { l with stage := [] }))
    (stop : ∀ s i rest, i :: rest <:+ items → P s → Q ((s.starve n).modLine n fun l => { l with stage := i :: rest }))
    {s : State} (hs : P s) : Q (State.takeItems n items s) := by
  induction items generalizing s with
  | nil => exact done s hs
  | cons i rest ih =>
    unfold State.takeItems
    split
    · rename_i t ht
      exact ih (fun s j tl hsuf => stop s j tl (hsuf.trans (List.suffix_cons i rest))) (item _ _ _ _ hs ht)
    · exact stop s i rest (List.suffix_refl _) hs

/-- The stage is taken only while the line is not starved. -/
theorem State.drain_keeps {P Q : State → Prop} {n : LineNo} {s : State}
    (starved : (s.line n).starved = true → Q s) (start : (s.line n).starved = false → P s)
    (item : ∀ s m i t, P s → s.takeItem n m i = some t → P t)
    (done : ∀ t, P t → Q (t.modLine n fun l => { l with stage := [] }))
    (stop : ∀ t i rest,
      i :: rest <:+ (s.line n).stage → P t → Q ((t.starve n).modLine n fun l => { l with stage := i :: rest })) :
    Q (s.drain n) := by
  unfold State.drain
  split
  · rename_i h; exact starved h
  · rename_i h; exact State.takeItems_keeps _ item done stop (start (by simpa using h))

/-! ### Beginning, serving, waking and releasing -/

/-- A transmitter begins, and the stage is taken behind the marker; or nothing changes. -/
theorem State.tryBegin_keeps {P : State → Prop} {n : LineNo} {s : State}
    (begins : ∀ r rest,
      (s.line n).downQueue = r :: rest → (s.line n).mayBegin = true →
        P ((s.modLine n (Line.begin r (s.buffer.payload r.chain r.length))).drain n))
    (hs : P s) : P (s.tryBegin n) := by
  unfold State.tryBegin
  split
  · exact hs
  · rename_i r rest hq
    split
    · rename_i hm; exact begins r rest hq hm
    · exact hs

/-- A transmitter with nothing to send or not free to begin begins nothing. -/
theorem State.tryBegin_idle {s : State} {n : LineNo} (h : (s.line n).downQueue = [] ∨ (s.line n).mayBegin = false) :
    s.tryBegin n = s := by
  unfold State.tryBegin
  split
  · rfl
  · rename_i r rest hq
    rcases h with h | h
    · simp [hq] at h
    · simp [h]

/-- The wake pass serves, one after another, starved lines whose opening would be granted. -/
theorem State.wakePass_keeps {P : State → Prop}
    (retry : ∀ s n, P s → (s.line n).starved = true → s.openingAllowed n = true → P (s.retry n))
    {s : State} (hs : P s) : P s.wakePass := by
  have : ∀ ns s, P s → P (State.wakeLines ns s) := by
    intro ns
    induction ns with
    | nil => intro s hs; exact hs
    | cons n ns ih =>
      intro s hs
      unfold State.wakeLines
      split
      · rename_i hst
        split
        · split
          · rename_i ho; exact ih _ (retry s n hs hst ho)
          · exact ih _ hs
        · exact hs
      · exact ih _ hs
  exact this _ _ hs

/-- With no line starved the wake pass does nothing. -/
theorem State.wakePass_noneStarved {s : State} (h : ∀ n, (s.line n).starved = false) : s.wakePass = s := by
  have : ∀ ns, State.wakeLines ns s = s := by
    intro ns
    induction ns with
    | nil => rfl
    | cons n ns ih => simp [State.wakeLines, h n, ih]
  exact this _

/-- A release gives the storage back and makes the wake pass. -/
theorem State.release_keeps {P : State → Prop} {s : State} {chain : List Nat} {desc : Nat}
    (retry : ∀ s n, P s → (s.line n).starved = true → s.openingAllowed n = true → P (s.retry n))
    (hs : P { s with buffer := s.buffer.giveBack chain desc }) : P (s.release chain desc) :=
  State.wakePass_keeps retry hs

/-! ### What line work leaves alone -/

/-- What line work never changes: everything but the lines, the Shared Buffer, the channels and the Event Summary. -/
structure State.Beside (s t : State) : Prop where
  held : t.held = s.held
  framer : t.framer = s.framer
  stations : t.stations = s.stations
  slots : t.slots = s.slots
  serializer : t.serializer = s.serializer
  parser : t.parser = s.parser
  script : t.poll.script = s.poll.script
  mode : t.poll.mode = s.poll.mode
  pointer : t.poll.pointer = s.poll.pointer
  parse : t.mgmt.parse = s.mgmt.parse
  cib : t.mgmt.cib = s.mgmt.cib
  exec : t.mgmt.exec = s.mgmt.exec
  responses : t.mgmt.responses = s.mgmt.responses
  accepted : t.mgmt.accepted = s.mgmt.accepted
  discarded : t.mgmt.discarded = s.mgmt.discarded
  ident : t.mgmt.ident = s.mgmt.ident
  quiet : t.quiet = s.quiet
  sup : t.sup = s.sup
  pending : t.pending = s.pending

theorem State.Beside.refl (s : State) : s.Beside s := by constructor <;> rfl

theorem State.Beside.trans {s t u : State} (h : s.Beside t) (k : t.Beside u) : s.Beside u := by
  constructor
  all_goals first
    | exact k.held.trans h.held | exact k.framer.trans h.framer | exact k.stations.trans h.stations
    | exact k.slots.trans h.slots | exact k.serializer.trans h.serializer | exact k.parser.trans h.parser
    | exact k.script.trans h.script | exact k.mode.trans h.mode | exact k.pointer.trans h.pointer
    | exact k.parse.trans h.parse | exact k.cib.trans h.cib | exact k.exec.trans h.exec
    | exact k.responses.trans h.responses | exact k.accepted.trans h.accepted
    | exact k.discarded.trans h.discarded | exact k.ident.trans h.ident | exact k.quiet.trans h.quiet
    | exact k.sup.trans h.sup | exact k.pending.trans h.pending

theorem State.Beside.modLine (s : State) (n : LineNo) (f : Line → Line) : s.Beside (s.modLine n f) := by
  constructor <;> rfl

theorem State.Beside.modChan (s : State) (c : ChannelNo) (f : Channel → Channel) : s.Beside (s.modChan c f) := by
  constructor <;> rfl

theorem State.Beside.raise (s : State) (c : Condition) : s.Beside (s.raise c) := by constructor <;> rfl

theorem State.Beside.buffer (s : State) (b : Buffer) : s.Beside { s with buffer := b } := by constructor <;> rfl

theorem State.Beside.pollEnd (s : State) (c : Octet) (o : PollOutcome) : s.Beside (s.pollEnd c o) := by
  unfold State.pollEnd
  split
  · exact .modChan _ _ _
  · exact .refl s

theorem State.Beside.endResponse (s : State) (n : LineNo) : s.Beside (s.endResponse n) := by
  unfold State.endResponse
  split
  · exact .refl s
  · exact (State.Beside.modLine _ _ _).trans (.pollEnd _ _ _)

theorem State.Beside.closeRecord (s : State) (n : LineNo) (c : CloseCause) : s.Beside (s.closeRecord n c) := by
  unfold State.closeRecord
  split
  · exact .refl s
  · dsimp only
    have h : s.Beside (if c = .truncated then (s.modLine n (Line.closeOpen c)).raise (.lineLoss n)
        else s.modLine n (Line.closeOpen c)) := by
      split
      · exact (State.Beside.modLine _ _ _).trans (.raise _ _)
      · exact .modLine _ _ _
    split
    · exact h
    · exact h.trans (.endResponse _ _)

theorem State.Beside.clearCont (s : State) (n : LineNo) : s.Beside (s.clearCont n) := by
  unfold State.clearCont
  split
  · exact .refl s
  · dsimp only
    split
    · exact (State.Beside.modLine _ _ _).trans (.endResponse _ _)
    · exact .modLine _ _ _

theorem State.Beside.openRecord {s t : State} {n : LineNo} {st : Option Octet} {m : Bool}
    (h : s.openRecord n st m = some t) : s.Beside t := by
  unfold State.openRecord at h
  split at h
  · split at h
    · cases h
    · cases h; exact (State.Beside.buffer _ _).trans (.modLine _ _ _)
  · cases h

theorem State.Beside.growRecord {s t : State} {n : LineNo} {r : UpRecord} (h : s.growRecord n r = some t) :
    s.Beside t := by
  unfold State.growRecord at h
  split at h
  · split at h
    · cases h
    · cases h; exact (State.Beside.buffer _ _).trans (.modLine _ _ _)
  · cases h

theorem State.Beside.appendChar (s : State) (n : LineNo) (e : StageEntry) : s.Beside (s.appendChar n e) := by
  unfold State.appendChar
  split
  · exact .refl s
  · dsimp only
    split
    · exact ((State.Beside.buffer _ _).trans (.modLine _ _ _)).trans (.closeRecord _ _ _)
    · exact (State.Beside.buffer _ _).trans (.modLine _ _ _)

/-- Line work leaves alone what stands beside it. -/
theorem State.Beside.kept (s : State) (n : LineNo) : KeptByItems (State.Beside s) n where
  close _ _ h := h.trans (.closeRecord _ _ _)
  clear _ h := h.trans (.clearCont _ _)
  opens _ _ _ _ _ h hu := h.trans (.openRecord hu)
  grow _ _ _ _ h hu := h.trans (.growRecord hu)
  append _ _ h := h.trans (.appendChar _ _ _)
  select _ _ _ h := h.trans (.modLine _ _ _)
  ignored _ h := h.trans (.modLine _ _ _)

theorem State.Beside.starve (s : State) (n : LineNo) : s.Beside (s.starve n) :=
  (State.Beside.closeRecord _ _ _).trans (.modLine _ _ _)

theorem State.Beside.drain (s : State) (n : LineNo) : s.Beside (s.drain n) :=
  State.drain_keeps (P := State.Beside s) (fun _ => .refl s) (fun _ => .refl s)
    (fun _ _ _ _ h ht => (State.Beside.kept s n).takeItem h ht) (fun _ h => h.trans (.modLine _ _ _))
    (fun _ _ _ _ h => (h.trans (.starve _ _)).trans (.modLine _ _ _))

theorem State.Beside.tryBegin (s : State) (n : LineNo) : s.Beside (s.tryBegin n) :=
  State.tryBegin_keeps (fun _ _ _ _ => (State.Beside.modLine _ _ _).trans (.drain _ _)) (.refl s)

theorem State.Beside.serve (s : State) (n : LineNo) : s.Beside (s.serve n) :=
  (State.Beside.drain _ _).trans (.tryBegin _ _)

theorem State.Beside.retry (s : State) (n : LineNo) : s.Beside (s.retry n) :=
  ((State.Beside.modLine s n _).trans (.buffer _ _)).trans (.serve _ _)

theorem State.Beside.wakePass (s : State) : s.Beside s.wakePass :=
  State.wakePass_keeps (P := State.Beside s) (fun t n h _ _ => h.trans (.retry t n)) (.refl s)

theorem State.Beside.release (s : State) (chain : List Nat) (desc : Nat) : s.Beside (s.release chain desc) :=
  (State.Beside.buffer s _).trans (.wakePass _)

/-! ### Other lines -/

/-- Work on line `n` leaves every other line as it is. -/
def State.OtherLines (n : LineNo) (s t : State) : Prop := ∀ m, m ≠ n → t.line m = s.line m

theorem State.OtherLines.refl (n : LineNo) (s : State) : State.OtherLines n s s := fun _ _ => rfl

theorem State.OtherLines.trans {n : LineNo} {s t u : State} (h : State.OtherLines n s t) (k : State.OtherLines n t u) :
    State.OtherLines n s u := fun m hm => (k m hm).trans (h m hm)

theorem State.OtherLines.modLine (s : State) (n : LineNo) (f : Line → Line) : State.OtherLines n s (s.modLine n f) :=
  fun _ hm => State.modLine_line_ne s f (Ne.symm hm)

theorem State.pollEnd_lines (s : State) (c : Octet) (o : PollOutcome) : (s.pollEnd c o).lines = s.lines := by
  unfold State.pollEnd
  split <;> rfl

theorem State.pollEnd_buffer (s : State) (c : Octet) (o : PollOutcome) : (s.pollEnd c o).buffer = s.buffer := by
  unfold State.pollEnd
  split <;> rfl

theorem State.pollEnd_mgmt (s : State) (c : Octet) (o : PollOutcome) : (s.pollEnd c o).mgmt = s.mgmt := by
  unfold State.pollEnd
  split <;> rfl

theorem State.pollEnd_line (s : State) (c : Octet) (o : PollOutcome) (m : LineNo) : (s.pollEnd c o).line m = s.line m := by
  simp only [State.line, State.pollEnd_lines]

theorem State.OtherLines.pollEnd (n : LineNo) (s : State) (c : Octet) (o : PollOutcome) :
    State.OtherLines n s (s.pollEnd c o) := fun m _ => State.pollEnd_line s c o m

theorem State.OtherLines.endResponse (n : LineNo) (s : State) : State.OtherLines n s (s.endResponse n) := by
  unfold State.endResponse
  split
  · exact .refl n s
  · exact (State.OtherLines.modLine _ _ _).trans (.pollEnd _ _ _ _)

theorem State.OtherLines.closeRecord (n : LineNo) (s : State) (c : CloseCause) :
    State.OtherLines n s (s.closeRecord n c) := by
  unfold State.closeRecord
  split
  · exact .refl n s
  · dsimp only
    have h : State.OtherLines n s (if c = .truncated then (s.modLine n (Line.closeOpen c)).raise (.lineLoss n)
        else s.modLine n (Line.closeOpen c)) := by
      split <;> exact .modLine _ _ _
    split
    · exact h
    · exact h.trans (.endResponse _ _)

theorem State.OtherLines.clearCont (n : LineNo) (s : State) : State.OtherLines n s (s.clearCont n) := by
  unfold State.clearCont
  split
  · exact .refl n s
  · dsimp only
    split
    · exact (State.OtherLines.modLine _ _ _).trans (.endResponse _ _)
    · exact .modLine _ _ _

/-- Work on a line leaves the other lines as they are. -/
theorem State.OtherLines.kept (n : LineNo) (s : State) : KeptByItems (State.OtherLines n s) n where
  close t c h := h.trans (.closeRecord _ _ _)
  clear t h := h.trans (.clearCont _ _)
  opens t st m u _ h hu := by
    unfold State.openRecord at hu
    split at hu
    · split at hu
      · cases hu
      · cases hu; exact h.trans (State.OtherLines.modLine { t with buffer := _ } n _)
    · cases hu
  grow t r u _ h hu := by
    unfold State.growRecord at hu
    split at hu
    · split at hu
      · cases hu
      · cases hu; exact h.trans (State.OtherLines.modLine { t with buffer := _ } n _)
    · cases hu
  append t e h := by
    unfold State.appendChar
    split
    · exact h
    · rename_i r _
      have k : State.OtherLines n t ({ t with buffer := t.buffer.storeOctet r.chain r.length e.value }.modLine n fun l =>
          { l with openRec := some (r.append e) }) := State.OtherLines.modLine { t with buffer := _ } n _
      dsimp only
      split
      · exact (h.trans k).trans (.closeRecord _ _ _)
      · exact h.trans k
  select t k _ h := h.trans (.modLine _ _ _)
  ignored t h := h.trans (.modLine _ _ _)

theorem State.OtherLines.drain (n : LineNo) (s : State) : State.OtherLines n s (s.drain n) :=
  State.drain_keeps (P := State.OtherLines n s) (fun _ => .refl n s) (fun _ => .refl n s)
    (fun _ _ _ _ h ht => (State.OtherLines.kept n s).takeItem h ht) (fun _ h => h.trans (.modLine _ _ _))
    (fun _ _ _ _ h => ((h.trans (.closeRecord _ _ _)).trans (.modLine _ _ _)).trans (.modLine _ _ _))

theorem State.OtherLines.tryBegin (n : LineNo) (s : State) : State.OtherLines n s (s.tryBegin n) :=
  State.tryBegin_keeps (fun _ _ _ _ => (State.OtherLines.modLine _ _ _).trans (.drain _ _)) (.refl n s)

theorem State.OtherLines.serve (n : LineNo) (s : State) : State.OtherLines n s (s.serve n) :=
  (State.OtherLines.drain _ _).trans (.tryBegin _ _)

/-! ### Closing and clearing, when no reply ends with it -/

theorem State.endResponse_none {s : State} {n : LineNo} (h : (s.line n).respMark = none) : s.endResponse n = s := by
  simp [State.endResponse, h]

theorem State.closeRecord_none {s : State} {n : LineNo} (c : CloseCause) (h : (s.line n).openRec = none) :
    s.closeRecord n c = s := by
  simp [State.closeRecord, h]

theorem State.closeRecord_some {s : State} {n : LineNo} {c : CloseCause} {r : UpRecord}
    (h : (s.line n).openRec = some r) (hr : (s.line n).respMark = none) (hc : c ≠ .truncated) :
    s.closeRecord n c = s.modLine n (Line.closeOpen c) := by
  simp only [State.closeRecord, h]
  rw [if_neg hc]
  split
  · rfl
  · exact State.endResponse_none (by simp [Line.closeOpen, h, hr])

theorem State.closeRecord_truncated {s : State} {n : LineNo} {r : UpRecord} (h : (s.line n).openRec = some r)
    (hr : (s.line n).respMark = none) :
    s.closeRecord n .truncated = (s.modLine n (Line.closeOpen .truncated)).raise (.lineLoss n) := by
  simp only [State.closeRecord, h, if_true, reduceCtorEq, if_false]
  exact State.endResponse_none (by simp [Line.closeOpen, h, hr])

theorem State.clearCont_none {s : State} {n : LineNo} (h : (s.line n).cont = none) : s.clearCont n = s := by
  simp [State.clearCont, h]

theorem State.clearCont_some {s : State} {n : LineNo} {m : Continuation} (h : (s.line n).cont = some m)
    (hr : (s.line n).respMark = none) :
    s.clearCont n = s.modLine n fun l => { l with cont := none, gapTimer := none } := by
  simp only [State.clearCont, h]
  split
  · exact State.endResponse_none (by simp [hr])
  · rfl

/-- The stage holding one item: it is taken and the stage is empty, or it stays and the line is starved. -/
theorem State.drain_one {s : State} {n : LineNo} {i : StageItem} (h : (s.line n).starved = false)
    (hs : (s.line n).stage = [i]) :
    s.drain n =
      match s.takeItem n false i with
      | some t => t.modLine n fun l => { l with stage := [] }
      | none => (s.starve n).modLine n fun l => { l with stage := [i] } := by
  cases q : s.takeItem n false i <;> simp [State.drain, h, hs, State.takeItems, q]

/-! ### Channels at the end of a record -/

/-- The channel whose number a record carries is told of its end, and no other. -/
theorem State.pollEnd_chan (s : State) (c : Octet) (o : PollOutcome) (k : ChannelNo) :
    (s.pollEnd c o).chan k = if c = natOctet k.val then (s.chan k).endRecord o else s.chan k := by
  have hk : (natOctet k.val).toNat = k.val := by simp only [natOctet, BitVec.toNat_ofNat]; omega
  unfold State.pollEnd
  split
  · rename_i h
    rw [State.modChan_chan]
    by_cases q : c = natOctet k.val
    · have e : (⟨c.toNat, h⟩ : ChannelNo) = k := by apply Fin.ext; simp only [q]; exact hk
      rw [if_pos q, if_pos e, e]
    · have e : (⟨c.toNat, h⟩ : ChannelNo) ≠ k := by rintro rfl; exact q (by simp [natOctet])
      rw [if_neg q, if_neg e]
  · rename_i h
    rw [if_neg]
    intro q
    rw [q, hk] at h
    exact h k.isLt

/-- The storage of several records given back at once. -/
theorem Buffer.giveBack_all (rs : List DownRecord) (b : Buffer) :
    rs.foldl (fun (b : Buffer) (r : DownRecord) => b.giveBack r.chain r.desc) b =
      { b with
        freeBlocks := b.freeBlocks ++ rs.flatMap fun r => r.chain
        freeDescs := b.freeDescs ++ rs.map fun r => r.desc } := by
  induction rs generalizing b with
  | nil => simp
  | cons r rs ih => rw [List.foldl_cons, ih]; simp [Buffer.giveBack]

end Sys2Proof.Machine
end

