-- ==== Sys2Proof/Laws/Assembly.lean ====
section
/-! SUPPORT. What a line's Record Assembler does to its own line: its upstream queue only grows, its receiver and its downstream queue stay, and without a reply wait no channel is told anything. -/

namespace Sys2Proof.Machine

/-- The work of line `n`'s Record Assembler, from `s` to `t`. -/
structure State.Assembles (n : LineNo) (s t : State) : Prop where
  rx : (t.line n).rx = (s.line n).rx
  downQueue : (t.line n).downQueue = (s.line n).downQueue
  quietHold : (t.line n).quietHold = (s.line n).quietHold
  upQueue : (s.line n).upQueue <+: (t.line n).upQueue
  calm : (s.line n).wait = none → (s.line n).respMark = none →
    (t.line n).wait = none ∧ (t.line n).respMark = none ∧ t.poll = s.poll

theorem State.Assembles.refl (n : LineNo) (s : State) : State.Assembles n s s :=
  ⟨rfl, rfl, rfl, List.prefix_refl _, fun h k => ⟨h, k, rfl⟩⟩

theorem State.Assembles.trans {n : LineNo} {s t u : State} (h : State.Assembles n s t) (k : State.Assembles n t u) :
    State.Assembles n s u where
  rx := k.rx.trans h.rx
  downQueue := k.downQueue.trans h.downQueue
  quietHold := k.quietHold.trans h.quietHold
  upQueue := h.upQueue.trans k.upQueue
  calm a b := by
    obtain ⟨c, d, e⟩ := h.calm a b
    obtain ⟨f, g, i⟩ := k.calm c d
    exact ⟨f, g, i.trans e⟩

/-- A change of the line alone, by its effect on the line. -/
theorem State.Assembles.line {n : LineNo} {s t : State} (f : Line → Line) (hl : t.line n = f (s.line n))
    (hp : t.poll = s.poll) (rx : ∀ l, (f l).rx = l.rx) (dq : ∀ l, (f l).downQueue = l.downQueue)
    (qh : ∀ l, (f l).quietHold = l.quietHold) (uq : ∀ l, l.upQueue <+: (f l).upQueue)
    (calm : ∀ l, l.wait = none → l.respMark = none → (f l).wait = none ∧ (f l).respMark = none) :
    State.Assembles n s t where
  rx := by rw [hl, rx]
  downQueue := by rw [hl, dq]
  quietHold := by rw [hl, qh]
  upQueue := by rw [hl]; exact uq _
  calm a b := by rw [hl]; exact ⟨(calm _ a b).1, (calm _ a b).2, hp⟩

theorem Line.settleDrain_keeps (l : Line) :
    l.settleDrain.rx = l.rx ∧ l.settleDrain.downQueue = l.downQueue ∧ l.settleDrain.quietHold = l.quietHold ∧
      l.settleDrain.upQueue = l.upQueue := by
  unfold Line.settleDrain
  split <;> exact ⟨rfl, rfl, rfl, rfl⟩

theorem Line.closeOpen_keeps (c : CloseCause) (l : Line) :
    (l.closeOpen c).rx = l.rx ∧ (l.closeOpen c).downQueue = l.downQueue ∧ (l.closeOpen c).quietHold = l.quietHold ∧
      l.upQueue <+: (l.closeOpen c).upQueue ∧ (l.closeOpen c).wait = l.wait ∧ (l.closeOpen c).respMark = l.respMark := by
  unfold Line.closeOpen
  split
  · exact ⟨rfl, rfl, rfl, List.prefix_refl _, rfl, rfl⟩
  · exact ⟨rfl, rfl, rfl, List.prefix_append _ _, rfl, rfl⟩

theorem State.Assembles.endResponse (n : LineNo) (s : State) : State.Assembles n s (s.endResponse n) := by
  unfold State.endResponse
  split
  · exact .refl n s
  · rename_i w hw
    have k := Line.settleDrain_keeps { s.line n with respMark := none, wait := none }
    have e := State.pollEnd_line
      (s.modLine n fun l => { l with respMark := none, wait := none }.settleDrain) w.channel .answered n
    rw [State.modLine_line_self] at e
    refine ⟨e ▸ k.1, e ▸ k.2.1, e ▸ k.2.2.1, ?_, fun _ h => ?_⟩
    · rw [e, k.2.2.2]
    · rw [hw] at h
      cases h

theorem State.Assembles.closeRecord (n : LineNo) (s : State) (c : CloseCause) :
    State.Assembles n s (s.closeRecord n c) := by
  unfold State.closeRecord
  split
  · exact .refl n s
  · dsimp only
    have h : State.Assembles n s (if c = .truncated then (s.modLine n (Line.closeOpen c)).raise (.lineLoss n)
        else s.modLine n (Line.closeOpen c)) := by
      refine .line (Line.closeOpen c) (by split <;> simp) (by split <;> rfl)
        (fun l => (l.closeOpen_keeps c).1) (fun l => (l.closeOpen_keeps c).2.1) (fun l => (l.closeOpen_keeps c).2.2.1)
        (fun l => (l.closeOpen_keeps c).2.2.2.1) fun l a b => ?_
      rw [(l.closeOpen_keeps c).2.2.2.2.1, (l.closeOpen_keeps c).2.2.2.2.2]
      exact ⟨a, b⟩
    split
    · exact h
    · exact h.trans (.endResponse _ _)

/-- A change that touches none of these fields. -/
theorem State.Assembles.modLine (s : State) (n : LineNo) (f : Line → Line) (rx : ∀ l, (f l).rx = l.rx)
    (dq : ∀ l, (f l).downQueue = l.downQueue) (qh : ∀ l, (f l).quietHold = l.quietHold)
    (uq : ∀ l, (f l).upQueue = l.upQueue) (wt : ∀ l, (f l).wait = l.wait) (rm : ∀ l, (f l).respMark = l.respMark) :
    State.Assembles n s (s.modLine n f) :=
  .line f (by simp) rfl rx dq qh (fun l => by rw [uq]) fun l a b =>
    ⟨(wt l).trans a, (rm l).trans b⟩

theorem State.Assembles.buffer (n : LineNo) (s : State) (b : Buffer) : State.Assembles n s { s with buffer := b } :=
  ⟨rfl, rfl, rfl, List.prefix_refl _, fun h k => ⟨h, k, rfl⟩⟩

theorem State.Assembles.clearCont (n : LineNo) (s : State) : State.Assembles n s (s.clearCont n) := by
  have h : State.Assembles n s (s.modLine n fun l => { l with cont := none, gapTimer := none }) := by
    apply State.Assembles.modLine <;> intro l <;> rfl
  unfold State.clearCont
  split
  · exact .refl n s
  · dsimp only
    split
    · exact h.trans (.endResponse _ _)
    · exact h

theorem State.Assembles.openNew (n : LineNo) (s : State) (st : Option Octet) (m : Bool) (d k : Nat) :
    State.Assembles n s (s.modLine n (Line.openNew st m d k)) where
  rx := by rw [State.modLine_line_self]; rfl
  downQueue := by rw [State.modLine_line_self]; rfl
  quietHold := by rw [State.modLine_line_self]; rfl
  upQueue := by rw [State.modLine_line_self]; exact List.prefix_refl _
  calm a b := by
    have h : (s.line n).replyCandidate st m = none := by simp [Line.replyCandidate, a]
    simp [Line.openNew, h, a, b]

/-- Taking the stage is the Record Assembler's work. -/
theorem State.Assembles.kept (n : LineNo) (s : State) : KeptByItems (State.Assembles n s) n where
  close t c h := h.trans (.closeRecord _ _ _)
  clear t h := h.trans (.clearCont _ _)
  opens t st m u _ h hu := by
    unfold State.openRecord at hu
    split at hu
    · split at hu
      · cases hu
      · cases hu; exact (h.trans (.buffer n t _)).trans (.openNew n _ st m _ _)
    · cases hu
  grow t r u _ h hu := by
    unfold State.growRecord at hu
    split at hu
    · split at hu
      · cases hu
      · rename_i b _
        cases hu
        refine (h.trans (.buffer n t b)).trans ?_
        apply State.Assembles.modLine <;> intro l <;> rfl
    · cases hu
  append t e h := by
    unfold State.appendChar
    split
    · exact h
    · rename_i r _
      have k : State.Assembles n t ({ t with buffer := t.buffer.storeOctet r.chain r.length e.value }.modLine n fun l =>
          { l with openRec := some (r.append e) }) := by
        refine (State.Assembles.buffer n t (t.buffer.storeOctet r.chain r.length e.value)).trans ?_
        apply State.Assembles.modLine <;> intro l <;> rfl
      dsimp only
      split
      · exact (h.trans k).trans (.closeRecord _ _ _)
      · exact h.trans k
  select t k _ h := h.trans (by apply State.Assembles.modLine <;> intro l <;> rfl)
  ignored t h := h.trans (by apply State.Assembles.modLine <;> intro l <;> rfl)

theorem State.Assembles.starve (n : LineNo) (s : State) : State.Assembles n s (s.starve n) :=
  (State.Assembles.closeRecord n s .truncated).trans
    (by apply State.Assembles.modLine <;> intro l <;> rfl)

/-- Taking the stage: the upstream queue only grows. -/
theorem State.Assembles.drain (n : LineNo) (s : State) : State.Assembles n s (s.drain n) :=
  State.drain_keeps (P := State.Assembles n s) (fun _ => .refl n s) (fun _ => .refl n s)
    (fun _ _ _ _ h ht => (State.Assembles.kept n s).takeItem h ht)
    (fun _ h => h.trans (by apply State.Assembles.modLine <;> intro l <;> rfl))
    (fun t _ _ _ h => (h.trans (.starve n t)).trans (by apply State.Assembles.modLine <;> intro l <;> rfl))

/-- A starved line's stage is not taken, and an empty stage holds nothing to take. -/
theorem State.drain_nothing {s : State} {n : LineNo} (h : (s.line n).starved = true ∨ (s.line n).stage = []) :
    s.drain n = s := by
  unfold State.drain
  split
  · rfl
  · rename_i hs
    have hq := h.resolve_left hs
    rw [hq]
    exact State.modLine_id s n (by generalize s.line n = l at hq; cases l; simp_all)

/-! ### Quiet entry -/

/-- A line's Record Assembler at Quiet entry (R64). -/
theorem State.Assembles.quietDrain (n : LineNo) (s : State) : State.Assembles n s (s.quietDrain n) :=
  (((State.Assembles.drain n s).trans (.closeRecord _ _ _)).trans (.clearCont _ _)).trans
    (by apply State.Assembles.modLine <;> intro l <;> rfl)

theorem State.Beside.quietDrain (s : State) (n : LineNo) : s.Beside (s.quietDrain n) :=
  (((State.Beside.drain s n).trans (.closeRecord _ _ _)).trans (.clearCont _ _)).trans (.modLine _ _ _)

theorem State.OtherLines.quietDrain (n : LineNo) (s : State) : State.OtherLines n s (s.quietDrain n) :=
  (((State.OtherLines.drain n s).trans (.closeRecord _ _ _)).trans (.clearCont _ _)).trans (.modLine _ _ _)

end Sys2Proof.Machine
end

