-- ==== Sys2Proof/Laws/Trunk.lean ====
section
/-! SUPPORT. The trunk's shared operations: what precedes an upstream header, the header's indicators, and what the parsers' octets and interruptions leave alone. -/

namespace Sys2Proof.Machine

/-! ### The upstream frame -/

/-- Whether the hold on the line streams ends at the start of the next frame (R103, R105). -/
def State.holdEnds (s : State) : Bool := s.framer.restartDue || s.serializer.lineHold == .ending

/-- What precedes a header, field by field. -/
theorem State.beforeHeader_eq (s : State) :
    s.beforeHeader =
      { (if s.holdEnds then s.mapLines fun l => { l with pos := l.pos.freed } else s) with
        framer :=
          { s.framer with
            running := s.framer.running || s.framer.restartDue
            txOctets := []
            lastFrame :=
              if s.framer.txOctets.isEmpty then s.framer.lastFrame
              else s.framer.txOctets ++ [crc8 (s.framer.txOctets.drop 1)] }
        slots := if s.framer.txNumber = 0 then s.slots.exchange else s.slots
        serializer := { s.serializer with lineHold := if s.holdEnds then .none else s.serializer.lineHold } } := by
  have hf : s.framer.finishFrame =
      { s.framer with
        txOctets := []
        lastFrame :=
          if s.framer.txOctets.isEmpty then s.framer.lastFrame
          else s.framer.txOctets ++ [crc8 (s.framer.txOctets.drop 1)] } := by
    unfold Framer.finishFrame
    cases h : s.framer.txOctets.isEmpty
    · simp
    · have : s.framer.txOctets = [] := by simpa using h
      simp [← this]
  have hr : s.framer.finishFrame.restartDue = s.framer.restartDue := by rw [hf]; rfl
  have ht : s.framer.finishFrame.txNumber = s.framer.txNumber := by rw [hf]
  unfold State.beforeHeader
  dsimp only
  by_cases hz : s.framer.txNumber = 0
  · simp only [ht, hz, if_true]
    cases hd : s.framer.restartDue
    · simp only [hr, hd, Bool.false_eq_true, if_false]
      by_cases hh : s.serializer.lineHold = .ending
      · simp [hf, hh, State.holdEnds, State.endHold, State.mapLines, hz]
      · simp [hf, hh, State.holdEnds, hd, hz]
    · simp only [hr, hd, if_true]
      simp [hf, hd, State.holdEnds, State.endHold, State.mapLines, hz]
  · have hd : s.framer.restartDue = false := by rw [Framer.restartDue, beq_false_of_ne hz]; rfl
    simp only [ht, hz, if_false, hr, hd, Bool.false_eq_true]
    by_cases hh : s.serializer.lineHold = .ending
    · simp [hf, hh, hd, State.holdEnds, State.endHold, State.mapLines]
    · simp [hf, hh, State.holdEnds, hd]

/-- A header's fields are what it was made of (R2, R183). -/
theorem headerOctet_fields (a r : Bool) (b : Fin 2) (q : Bool) (n : BitVec 4) :
    headerNumber (headerOctet a r b q n) = n ∧ (headerOctet a r b q n).getLsbD 7 = a ∧
      headerRemoteAlarm (headerOctet a r b q n) = r ∧ ((headerOctet a r b q n).getLsbD 5 = true ↔ b = 1) ∧
      headerRestart (headerOctet a r b q n) = q := by
  revert a r b q n
  decide +kernel

/-- An octet run through the register that equals it leaves 00h (R183). -/
theorem crcOctet_self : ∀ c : Octet, crcOctet c c = 0x00 := by decide +kernel

/-- Octets followed by their own CRC-8 have the CRC-8 00h (R183). -/
theorem crc8_check (octets : List Octet) : crc8 (octets ++ [crc8 octets]) = 0x00 := by
  simp only [crc8, List.foldl_append, List.foldl_cons, List.foldl_nil]
  exact crcOctet_self _

/-! ### What the parsers leave alone -/

/-- What the two parsers, their discards and the work they set going never change. -/
structure State.BesideParsers (s t : State) : Prop where
  held : t.held = s.held
  framer : t.framer = s.framer
  stations : t.stations = s.stations
  slots : t.slots = s.slots
  serializer : t.serializer = s.serializer
  script : t.poll.script = s.poll.script
  mode : t.poll.mode = s.poll.mode
  pointer : t.poll.pointer = s.poll.pointer
  exec : t.mgmt.exec = s.mgmt.exec
  responses : t.mgmt.responses = s.mgmt.responses
  ident : t.mgmt.ident = s.mgmt.ident
  quiet : t.quiet = s.quiet
  sup : t.sup = s.sup
  pending : t.pending = s.pending

theorem State.BesideParsers.refl (s : State) : s.BesideParsers s := by constructor <;> rfl

theorem State.BesideParsers.trans {s t u : State} (h : s.BesideParsers t) (k : t.BesideParsers u) :
    s.BesideParsers u where
  held := k.held.trans h.held
  framer := k.framer.trans h.framer
  stations := k.stations.trans h.stations
  slots := k.slots.trans h.slots
  serializer := k.serializer.trans h.serializer
  script := k.script.trans h.script
  mode := k.mode.trans h.mode
  pointer := k.pointer.trans h.pointer
  exec := k.exec.trans h.exec
  responses := k.responses.trans h.responses
  ident := k.ident.trans h.ident
  quiet := k.quiet.trans h.quiet
  sup := k.sup.trans h.sup
  pending := k.pending.trans h.pending

theorem State.Beside.parsers {s t : State} (h : s.Beside t) : s.BesideParsers t :=
  ⟨h.held, h.framer, h.stations, h.slots, h.serializer, h.script, h.mode, h.pointer, h.exec, h.responses, h.ident,
    h.quiet, h.sup, h.pending⟩

theorem State.BesideParsers.setParse (s : State) (p : DownParse) : s.BesideParsers (s.setParse p) := by
  constructor <;> rfl

theorem State.BesideParsers.setCmdParse (s : State) (p : CmdParse) : s.BesideParsers (s.setCmdParse p) := by
  constructor <;> rfl

theorem State.BesideParsers.discardDown (s : State) (d : Discard) (p : DownParse) :
    s.BesideParsers (s.discardDown d p) := by constructor <;> rfl

theorem State.BesideParsers.discardCommand (s : State) : s.BesideParsers s.discardCommand := by constructor <;> rfl

theorem State.BesideParsers.interruptDown (s : State) (p : DownParse) : s.BesideParsers (s.interruptDown p) := by
  unfold State.interruptDown
  split
  all_goals first
    | exact .setParse _ _
    | exact .discardDown _ _ _
    | exact (State.BesideParsers.discardDown _ _ _).trans (State.Beside.release _ _ _).parsers

theorem State.BesideParsers.interruptCommand (s : State) (p : CmdParse) : s.BesideParsers (s.interruptCommand p) := by
  unfold State.interruptCommand
  split
  all_goals first
    | exact .setCmdParse _ _
    | exact (State.BesideParsers.setCmdParse _ _).trans (.discardCommand _)

theorem State.BesideParsers.parsersWait (s : State) : s.BesideParsers s.parsersWait :=
  (State.BesideParsers.interruptDown _ _).trans (.interruptCommand _ _)

/-- An interruption leaves the Downstream Parser where it was sent. -/
theorem State.interruptDown_parse (s : State) (p : DownParse) : (s.interruptDown p).parser.parse = p := by
  unfold State.interruptDown
  split
  all_goals first
    | rfl
    | (rw [(State.Beside.release _ _ _).parser]; rfl)

/-- An interruption of the Downstream Parser leaves the command parser, its buffer and its counters alone. -/
theorem State.interruptDown_commands (s : State) (p : DownParse) :
    (s.interruptDown p).mgmt.parse = s.mgmt.parse ∧ (s.interruptDown p).mgmt.cib = s.mgmt.cib ∧
      (s.interruptDown p).mgmt.accepted = s.mgmt.accepted ∧ (s.interruptDown p).mgmt.discarded = s.mgmt.discarded := by
  unfold State.interruptDown
  split
  all_goals first
    | exact ⟨rfl, rfl, rfl, rfl⟩
    | (rename_i r k _
       have h := State.Beside.release (s.discardDown .interrupted p) r.chain r.desc
       exact ⟨h.parse, h.cib, h.accepted, h.discarded⟩)

/-- An interruption leaves the command parser where it was sent. -/
theorem State.interruptCommand_parse (s : State) (p : CmdParse) : (s.interruptCommand p).mgmt.parse = p := by
  unfold State.interruptCommand
  split <;> rfl

/-- An interruption of the command parser leaves the lines, the storage, the channels, the Downstream Parser and the
commands taken in alone. -/
theorem State.interruptCommand_rest (s : State) (p : CmdParse) :
    (s.interruptCommand p).lines = s.lines ∧ (s.interruptCommand p).buffer = s.buffer ∧
      (s.interruptCommand p).poll = s.poll ∧ (s.interruptCommand p).parser = s.parser ∧
      (s.interruptCommand p).mgmt.cib = s.mgmt.cib := by
  unfold State.interruptCommand
  split <;> exact ⟨rfl, rfl, rfl, rfl, rfl⟩

/-- In WAIT_RESTART both parsers wait, and no octet changes anything. -/
theorem State.parsersWait_parse (s : State) :
    s.parsersWait.parser.parse = .waitRestart ∧ s.parsersWait.mgmt.parse = .waitRestart := by
  refine ⟨?_, State.interruptCommand_parse _ _⟩
  unfold State.parsersWait
  rw [(State.interruptCommand_rest _ _).2.2.2.1]
  exact State.interruptDown_parse _ _

theorem State.BesideParsers.appendDown (s : State) (r : DownRecord) : s.BesideParsers (s.appendDown r) := by
  unfold State.appendDown
  split
  · exact (State.BesideParsers.discardDown _ _ _).trans (State.Beside.release _ _ _).parsers
  · split
    · exact (State.BesideParsers.discardDown _ _ _).trans (State.Beside.release _ _ _).parsers
    · exact (State.BesideParsers.setParse _ _).trans
        ((State.Beside.modLine _ _ _).trans (.tryBegin _ _)).parsers

theorem State.BesideParsers.buffer (s : State) (b : Buffer) : s.BesideParsers { s with buffer := b } :=
  (State.Beside.buffer s b).parsers

theorem State.BesideParsers.storePayload (s : State) (r : DownRecord) (k : Nat) (o : Octet) :
    s.BesideParsers (s.storePayload r k o) := by
  unfold State.storePayload
  dsimp only
  split
  · exact (State.BesideParsers.buffer s _).trans (.appendDown _ _)
  · exact (State.BesideParsers.buffer s _).trans (.setParse _ _)

theorem State.BesideParsers.feedPayload (s : State) (r : DownRecord) (k : Nat) (o : Octet) :
    s.BesideParsers (s.feedPayload r k o) := by
  unfold State.feedPayload
  split
  · split
    · exact (State.BesideParsers.discardDown _ _ _).trans (State.Beside.release _ _ _).parsers
    · exact (State.BesideParsers.buffer s _).trans (.storePayload _ _ _ _)
  · exact .storePayload _ _ _ _

theorem State.BesideParsers.headerComplete (s : State) (k : DownKind) (len : Nat) (station : Octet) :
    s.BesideParsers (s.headerComplete k len station) := by
  unfold State.headerComplete
  split
  · exact .discardDown _ _ _
  · split
    · exact .discardDown _ _ _
    · dsimp only
      split
      · exact (State.BesideParsers.buffer s _).trans (.appendDown _ _)
      · exact (State.BesideParsers.buffer s _).trans (.setParse _ _)

/-- An octet of a data slot leaves alone what stands beside the parsers. -/
theorem State.BesideParsers.feedDown (s : State) (o : Octet) : s.BesideParsers (s.feedDown o) := by
  unfold State.feedDown
  split
  · exact .refl s
  · split
    · exact .refl s
    · split
      · exact .setParse _ _
      · exact .discardDown _ _ _
  · exact .setParse _ _
  · exact .headerComplete _ _ _ _
  · exact .feedPayload _ _ _ _
  · exact .setParse _ _
  · exact .setParse _ _

theorem State.BesideParsers.commandComplete (s : State) (c : Command) : s.BesideParsers (s.commandComplete c) := by
  unfold State.commandComplete
  dsimp only
  split
  · constructor <;> rfl
  · exact (State.BesideParsers.setCmdParse _ _).trans (.discardCommand _)

/-- An octet of the management slot leaves alone what stands beside the parsers. -/
theorem State.BesideParsers.feedCommand (s : State) (o : Octet) : s.BesideParsers (s.feedCommand o) := by
  unfold State.feedCommand
  split
  · exact .refl s
  · split
    · exact .refl s
    · exact .setCmdParse _ _
  · exact .setCmdParse _ _
  · split
    · exact .commandComplete _ _
    · split <;> exact .setCmdParse _ _
  · dsimp only
    split
    · exact .commandComplete _ _
    · exact .setCmdParse _ _
  · split
    · exact .commandComplete _ _
    · exact .setCmdParse _ _

/-- The octets of the data slots, in order. -/
theorem State.BesideParsers.feedSlots (octets : List Octet) (s : State) :
    s.BesideParsers (octets.foldl State.feedDown s) := by
  induction octets generalizing s with
  | nil => exact .refl s
  | cons o os ih => exact (State.BesideParsers.feedDown s o).trans (ih _)

/-! ### The streams -/

theorem StreamPos.breakOff_ne_sending (p : StreamPos) (k : Nat) : p.breakOff ≠ .sending k := by
  cases p <;> simp [StreamPos.breakOff]

theorem State.breakOff_line (s : State) (n : LineNo) :
    s.breakOff.line n = { s.line n with pos := (s.line n).pos.breakOff } := by
  simp [State.breakOff, State.mapLines, State.line]

/-- Streams that run without transmit-enable are broken off; otherwise nothing changes. -/
theorem State.checkStreams_eq (s : State) :
    s.checkStreams = if s.framer.running = true ∧ s.framer.transmitEnable = false then s.breakOff else s := by
  unfold State.checkStreams
  cases s.framer.running <;> cases s.framer.transmitEnable <;> simp

theorem State.checkStreams_held (s : State) : s.checkStreams.held = s.held := by
  rw [State.checkStreams_eq]
  split <;> rfl

/-! ### Frames -/

/-- A restart event counts itself and leaves the rest of the framer alone (R17). -/
theorem State.restartEvent_framer (s : State) :
    s.restartEvent.framer = { s.framer with restarts := satInc s.framer.restarts } :=
  (State.BesideParsers.interruptCommand _ _).framer.trans (State.BesideParsers.interruptDown _ _).framer

/-- After a restart event both parsers are between records (R17). -/
theorem State.restartEvent_parse (s : State) :
    s.restartEvent.parser.parse = .between ∧ s.restartEvent.mgmt.parse = .between := by
  refine ⟨?_, State.interruptCommand_parse _ _⟩
  unfold State.restartEvent
  rw [(State.interruptCommand_rest _ _).2.2.2.1]
  exact State.interruptDown_parse _ _

theorem State.restartEvent_held (s : State) : s.restartEvent.held = s.held :=
  (State.BesideParsers.interruptCommand _ _).held.trans (State.BesideParsers.interruptDown _ _).held

/-- A frame is delivered as its slots, behind its restart event when it carries one (R7, R16). -/
theorem State.deliver_eq (s : State) (octets : List Octet) :
    s.deliver octets = (if headerRestart (frameOctet octets 1) then s.restartEvent else s).takeSlots octets := rfl

/-- A frame's slots leave alone what stands beside the parsers. -/
theorem State.BesideParsers.takeSlots (s : State) (octets : List Octet) : s.BesideParsers (s.takeSlots octets) :=
  (State.BesideParsers.feedSlots _ _).trans (.feedCommand _ _)

theorem State.deliver_held (s : State) (octets : List Octet) : (s.deliver octets).held = s.held := by
  rw [State.deliver_eq, (State.BesideParsers.takeSlots _ _).held]
  split
  · exact State.restartEvent_held s
  · rfl

/-- In WAIT_RESTART both parsers let every slot pass (R7, R15). -/
theorem State.takeSlots_waiting (s : State) (octets : List Octet) (h : s.parser.parse = .waitRestart)
    (h' : s.mgmt.parse = .waitRestart) : s.takeSlots octets = s := by
  have : ∀ os : List Octet, os.foldl State.feedDown s = s := by
    intro os
    induction os with
    | nil => rfl
    | cons o os ih => rw [List.foldl_cons, State.feedDown, h]; exact ih
  unfold State.takeSlots
  rw [this, State.feedCommand, h']

/-- A judgement never holds the part in reset, nor releases it. -/
theorem State.judgeFrame_held (s : State) (octets : List Octet) : (s.judgeFrame octets).held = s.held := by
  unfold State.judgeFrame
  split
  · unfold State.frameInSearch
    split <;> rfl
  · unfold State.frameInConfirm
    split <;> rfl
  · unfold State.frameInAligned
    split
    · dsimp only
      split
      · rw [State.deliver_held, (State.BesideParsers.parsersWait _).held]
      · rfl
    · dsimp only
      split <;> rfl
  · unfold State.frameInOperational
    split
    · dsimp only
      split
      · rw [State.deliver_held, State.checkStreams_held]
      · rw [State.checkStreams_held, (State.BesideParsers.parsersWait _).held]; rfl
    · dsimp only
      split
      · rw [State.checkStreams_held]
        exact (State.BesideParsers.parsersWait _).held
      · exact (State.BesideParsers.parsersWait _).held
  · rfl

end Sys2Proof.Machine
end

