-- ==== Sys2Proof/Laws/Bits.lean ====
section
/-! SUPPORT. The bits of the trunk receive pair: what a run of them does within a frame, at the end of a frame, and from an empty hunt. -/

namespace Sys2Proof.Machine

/-! ### Octets and their bits -/

theorem octetBits_length (o : Octet) : (octetBits o).length = 8 := by simp [octetBits]

theorem octetsOf_octetBits (o : Octet) (rest : List Bool) : octetsOf (octetBits o ++ rest) = o :: octetsOf rest := by
  have : ∀ o : Octet,
      octetOf (o.getMsb 0) (o.getMsb 1) (o.getMsb 2) (o.getMsb 3) (o.getMsb 4) (o.getMsb 5) (o.getMsb 6)
        (o.getMsb 7) = o := by decide +kernel
  exact congrArg (· :: octetsOf rest) (this o)

/-- The octets of the bits that octets make are those octets (R182). -/
theorem octetsOf_trunkBits (octets : List Octet) : octetsOf (trunkBits octets) = octets := by
  induction octets with
  | nil => rfl
  | cons o os ih =>
    have : trunkBits (o :: os) = octetBits o ++ trunkBits os := rfl
    rw [this, octetsOf_octetBits, ih]

theorem trunkBits_length (octets : List Octet) : (trunkBits octets).length = 8 * octets.length := by
  induction octets with
  | nil => rfl
  | cons o os ih =>
    have : trunkBits (o :: os) = octetBits o ++ trunkBits os := rfl
    simp only [this, List.length_append, octetBits_length, ih, List.length_cons]
    omega

/-! ### Runs of bits -/

/-- A part held in reset takes no bit, and any other takes its bits one by one. -/
theorem State.exec_bits (s : State) (bits : List Bool) (octets : List Octet) (h : s.held = .no) :
    execDownstreamFrameJudged bits octets s = .next ((bits ++ trunkBits octets).foldl State.takeBit s) := by
  simp [execDownstreamFrameJudged, h]

/-- A bit never holds the part in reset, nor releases it. -/
theorem State.takeBit_held (s : State) (b : Bool) : (s.takeBit b).held = s.held := by
  unfold State.takeBit State.searchBit State.alignedBit
  split
  all_goals dsimp only
  all_goals repeat' split
  all_goals first
    | rfl
    | exact State.judgeFrame_held _ _

theorem State.takeBits_held (s : State) (bits : List Bool) : (bits.foldl State.takeBit s).held = s.held := by
  induction bits generalizing s with
  | nil => rfl
  | cons b bs ih => rw [List.foldl_cons, ih, State.takeBit_held]

theorem State.takeBit_quiet (s : State) (b : Bool) (h : s.framer.rx = .quiet) : s.takeBit b = s := by
  simp [State.takeBit, h]

theorem State.takeBits_quiet (s : State) (bits : List Bool) (h : s.framer.rx = .quiet) :
    bits.foldl State.takeBit s = s := by
  induction bits with
  | nil => rfl
  | cons b bs ih => rw [List.foldl_cons, State.takeBit_quiet s b h, ih]

/-- The receive states in which the framer follows the aligned position. -/
def Align.follows (a : Align) : Prop := a = .confirm ∨ a = .aligned ∨ a = .operational

theorem State.takeBit_follows (s : State) (b : Bool) (h : s.framer.rx.follows) :
    s.takeBit b = { s with framer := { s.framer with bitPos := s.framer.bitPos + 1 } }.alignedBit b := by
  rcases h with h | h | h <;> simp [State.takeBit, h]

theorem Fin.add_ofNat_succ (p : Fin 256) (k : Nat) : p + 1 + Fin.ofNat 256 k = p + Fin.ofNat 256 (k + 1) := by
  apply Fin.ext
  simp only [Fin.val_add, Fin.ofNat, Fin.val_one]
  omega

/-- Bits that reach no frame's end are kept for it (R3). -/
theorem State.takeBits_within (s : State) (bits : List Bool) (h : s.framer.rx.follows)
    (hk : ∀ k : Nat, 1 ≤ k → k ≤ bits.length → s.framer.bitPos + Fin.ofNat 256 k ≠ s.framer.alignPos) :
    bits.foldl State.takeBit s =
      { s with
        framer :=
          { s.framer with
            rxBits := s.framer.rxBits ++ bits, bitPos := s.framer.bitPos + Fin.ofNat 256 bits.length } } := by
  induction bits generalizing s with
  | nil => simp [Fin.ofNat]
  | cons b bs ih =>
    have h1 : s.framer.bitPos + 1 ≠ s.framer.alignPos := hk 1 (Nat.le_refl 1) (by simp)
    have e : s.takeBit b =
        { s with framer := { s.framer with rxBits := s.framer.rxBits ++ [b], bitPos := s.framer.bitPos + 1 } } := by
      rw [State.takeBit_follows s b h]
      simp [State.alignedBit, h1]
    rw [List.foldl_cons, e]
    refine (ih
      { s with framer := { s.framer with rxBits := s.framer.rxBits ++ [b], bitPos := s.framer.bitPos + 1 } } h
      fun k k1 k2 => ?_).trans ?_
    · simp only [Fin.add_ofNat_succ]
      exact hk (k + 1) (by omega) (by simp only [List.length_cons]; omega)
    · simp only [Fin.add_ofNat_succ, List.append_assoc, List.cons_append, List.nil_append, List.length_cons]

/-- The bits that end the frame at the aligned position bring about its judgement (R3, R5). -/
theorem State.takeBits_completes (s : State) (bits : List Bool) (octets : List Octet) (h : s.framer.rx.follows)
    (hc : s.framer.Completes bits octets) :
    bits.foldl State.takeBit s = s.afterFrame.judgeFrame octets := by
  obtain ⟨h32, hne, hb, hp⟩ := hc
  have hl : s.framer.rxBits.length + bits.length = 256 := by
    have := congrArg List.length hb
    rw [trunkBits_length, h32, List.length_append] at this
    exact this
  obtain ⟨front, b, rfl⟩ : ∃ front b, bits = front ++ [b] := ⟨_, _, (List.dropLast_concat_getLast hne).symm⟩
  simp only [List.length_append, List.length_cons, List.length_nil] at hl hp
  rw [List.foldl_append, State.takeBits_within s front h]
  · have hp' : s.framer.bitPos + Fin.ofNat 256 front.length + 1 = s.framer.alignPos := by
      rw [← hp]
      apply Fin.ext
      simp only [Fin.val_add, Fin.ofNat, Fin.val_one]
      omega
    refine (State.takeBit_follows
      { s with
        framer :=
          { s.framer with
            rxBits := s.framer.rxBits ++ front, bitPos := s.framer.bitPos + Fin.ofNat 256 front.length } } b h).trans ?_
    simp only [State.alignedBit, hp', if_true, State.afterFrame]
    rw [List.append_assoc, hb, octetsOf_trunkBits]
  · intro k k1 k2 e
    rw [← hp] at e
    have e := congrArg Fin.val e
    simp only [Fin.val_add, Fin.ofNat] at e
    omega

/-! ### The hunt -/

theorem State.takeBit_search (s : State) (b : Bool) (h : s.framer.rx = .search) :
    s.takeBit b = { s with framer := { s.framer with bitPos := s.framer.bitPos + 1 } }.searchBit b := by
  simp [State.takeBit, h]

/-- A bit of a hunt whose oldest candidate, if there is one, is not complete with it: the hunt goes on. -/
theorem State.takeBit_hunt (s : State) (b : Bool) (h : s.framer.rx = .search)
    (hc : ∀ c ∈ ((s.framer.huntBit b).candidates).head?, c.length ≠ 256) :
    s.takeBit b = { s with framer := { s.framer.huntBit b with bitPos := s.framer.bitPos + 1 } } := by
  rw [State.takeBit_search s b h]
  unfold State.searchBit
  dsimp only
  split
  · rfl
  · rename_i c rest hq
    have hq' : (s.framer.huntBit b).candidates = c :: rest := hq
    have : c.length ≠ 256 := hc c (by rw [hq']; rfl)
    simp only [this, if_false]
    rfl

/-- A bit of a hunt with which the oldest candidate is complete: that candidate is judged (R4). -/
theorem State.takeBit_judged (s : State) (b : Bool) (c : List Bool) (rest : List (List Bool))
    (h : s.framer.rx = .search) (hq : (s.framer.huntBit b).candidates = c :: rest) (hl : c.length = 256) :
    s.takeBit b =
      { s with framer := { s.framer.huntBit b with bitPos := s.framer.bitPos + 1 } }.frameInSearch (octetsOf c) := by
  rw [State.takeBit_search s b h]
  unfold State.searchBit
  have hq' : ({ s.framer with bitPos := s.framer.bitPos + 1 }.huntBit b).candidates = c :: rest := hq
  simp only [hq', hl, if_true]
  have hr : ({ s.framer with bitPos := s.framer.bitPos + 1 }.huntBit b).rx = .search := h
  simp only [State.judgeFrame, hr]
  rfl

/-- The oldest candidate stays the oldest and takes the bit. -/
theorem Framer.huntBit_oldest (f : Framer) (b : Bool) (c : List Bool) (rest : List (List Bool))
    (h : f.candidates = c :: rest) : ∃ others, (f.huntBit b).candidates = (c ++ [b]) :: others := by
  simp only [Framer.huntBit, h, List.map_cons, List.cons_append]
  exact ⟨_, rfl⟩

/-- A hunt whose oldest candidate has been open for fewer than 256 bits goes on until that candidate is complete. -/
theorem State.takeBits_oldest (bits : List Bool) :
    ∀ (s : State) (c : List Bool) (rest : List (List Bool)),
      s.framer.rx = .search → s.framer.candidates = c :: rest → c.length + bits.length < 256 →
        ∃ (last : List Bool) (others : List (List Bool)),
          bits.foldl State.takeBit s =
            { s with
              framer :=
                { s.framer with
                  bitPos := s.framer.bitPos + Fin.ofNat 256 bits.length
                  recent := last, candidates := (c ++ bits) :: others } } := by
  induction bits with
  | nil =>
    intro s c rest _ hc _
    exact ⟨s.framer.recent, rest, by simp [Fin.ofNat, ← hc]⟩
  | cons b bs ih =>
    intro s c rest h hc hl
    simp only [List.length_cons] at hl
    obtain ⟨others, hq⟩ := Framer.huntBit_oldest s.framer b c rest hc
    have e := State.takeBit_hunt s b h (by
      intro d hd
      rw [hq] at hd
      simp only [List.head?_cons, Option.mem_def, Option.some.injEq] at hd
      rw [← hd]
      simp only [List.length_append, List.length_cons, List.length_nil]
      omega)
    rw [List.foldl_cons, e]
    obtain ⟨last, os, he⟩ := ih { s with framer := { s.framer.huntBit b with bitPos := s.framer.bitPos + 1 } }
      (c ++ [b]) others h hq (by simp only [List.length_append, List.length_cons, List.length_nil]; omega)
    refine ⟨last, os, he.trans ?_⟩
    simp only [Framer.huntBit, List.length_cons, List.append_assoc, List.cons_append, List.nil_append]
    rw [Fin.add_ofNat_succ]

/-- The eight bits of the sync octet open a candidate of a hunt in which no bit has arrived (R4). -/
theorem State.takeBits_sync (s : State) (h : s.framer.rx = .search) (hr : s.framer.recent = [])
    (hc : s.framer.candidates = []) :
    (octetBits Config.sync).foldl State.takeBit s =
      { s with
        framer :=
          { s.framer with
            bitPos := s.framer.bitPos + Fin.ofNat 256 8, recent := octetBits Config.sync
            candidates := [octetBits Config.sync] } } := by
  have hb : octetBits Config.sync = [true, true, false, true, false, false, true, true] := by decide
  have p : s.framer.bitPos + Fin.ofNat 256 8 = s.framer.bitPos + 1 + 1 + 1 + 1 + 1 + 1 + 1 + 1 := by
    apply Fin.ext
    simp only [Fin.val_add, Fin.ofNat, Fin.val_one]
    omega
  rw [p, hb]
  simp [State.takeBit, State.searchBit, Framer.huntBit, h, hr, hc, hb]

/-- From an empty hunt the bits of a good frame end the search: its position is the aligned one (R4). -/
theorem State.takeBits_goodFrame (s : State) (octets : List Octet) (h : s.framer.rx = .search)
    (hr : s.framer.recent = []) (hc : s.framer.candidates = []) (hg : goodFrame octets = true) :
    (trunkBits octets).foldl State.takeBit s =
      { s with
        framer :=
          { s.framer with
            rx := .confirm, goodCount := 1, alignPos := s.framer.bitPos, recent := [], candidates := []
            rxBits := [] } } := by
  have hl : octets.length = 32 := by
    have := hg
    simp only [goodFrame, Bool.and_eq_true, beq_iff_eq] at this
    exact this.1.1
  obtain ⟨tail, rfl⟩ : ∃ tail, octets = Config.sync :: tail := by
    have := hg
    simp only [goodFrame, Bool.and_eq_true, beq_iff_eq, frameOctet] at this
    cases octets with
    | nil => cases hl
    | cons o os => exact ⟨os, by have := this.1.2; simp at this; rw [this]⟩
  simp only [List.length_cons] at hl
  have ht : (trunkBits tail).length = 248 := by rw [trunkBits_length]; omega
  obtain ⟨front, b, hf⟩ : ∃ front b, trunkBits tail = front ++ [b] :=
    ⟨_, _, (List.dropLast_concat_getLast (l := trunkBits tail) (by intro e; rw [e] at ht; cases ht)).symm⟩
  have hfl : front.length = 247 := by
    rw [hf] at ht
    simpa using ht
  have e : trunkBits (Config.sync :: tail) = octetBits Config.sync ++ (front ++ [b]) := by rw [← hf]; rfl
  have e8 : (octetBits Config.sync).length = 8 := octetBits_length _
  rw [e, List.foldl_append, State.takeBits_sync s h hr hc, List.foldl_append]
  obtain ⟨last, others, he⟩ := State.takeBits_oldest front
    { s with
      framer :=
        { s.framer with
          bitPos := s.framer.bitPos + Fin.ofNat 256 8, recent := octetBits Config.sync
          candidates := [octetBits Config.sync] } }
    (octetBits Config.sync) [] h rfl (by rw [e8, hfl]; decide)
  rw [List.foldl_cons, List.foldl_nil]
  revert he
  generalize front.foldl State.takeBit _ = u
  intro he
  have hu : u.framer.rx = .search := by rw [he]; exact h
  obtain ⟨rest, hq⟩ := Framer.huntBit_oldest u.framer b (octetBits Config.sync ++ front) others (by rw [he])
  have p : s.framer.bitPos + Fin.ofNat 256 8 + Fin.ofNat 256 front.length + 1 = s.framer.bitPos := by
    rw [hfl]
    apply Fin.ext
    simp only [Fin.val_add, Fin.ofNat, Fin.val_one]
    omega
  have ho : octetsOf (octetBits Config.sync ++ front ++ [b]) = Config.sync :: tail := by
    rw [List.append_assoc, ← e, octetsOf_trunkBits]
  rw [State.takeBit_judged u b _ rest hu hq
    (by simp only [List.length_append, e8, hfl, List.length_cons, List.length_nil]), ho, he]
  simp only [State.frameInSearch, hg, if_true, Framer.huntBit, p]

end Sys2Proof.Machine
end

