-- ==== Sys2Proof/Laws/Clock.lean ====
section
/-! SUPPORT. The step on an empty queue: which expiry is due, and what a millisecond changes. -/

namespace Sys2Proof.Machine

/-- A step on an empty queue (log 4). -/
theorem step_idle {s : State} (h : s.pending = []) :
    step s = match s.dueExpiry with | some i => exec i s | none => .next s.tick := by
  cases s
  simp only at h
  subst h
  rfl

/-- A step with a command at the front of the queue. -/
theorem step_front {s : State} {c : Instr} {cs : List Instr} (h : s.pending = c :: cs) :
    step s = exec c { s with pending := cs } := by
  simp only [step, h]

theorem State.timeRuns_iff (s : State) : s.timeRuns = true ↔ s.held = .no ∧ s.quiet.flag = false := by
  simp [State.timeRuns]

/-- A line's reply timer has run out on a wait that has not begun (R120). -/
theorem Line.replyDue_iff (l : Line) :
    l.replyDue = true ↔ ∃ w, l.wait = some w ∧ w.begun = false ∧ w.timer = some 0 := by
  unfold Line.replyDue
  cases l.wait <;> simp

/-- An ARMED TIMER channel's interval counter has run out (R136). -/
theorem Channel.intervalDue_iff (c : Channel) :
    c.intervalDue = true ↔ c.armed = true ∧ c.settings.trigger = .timer ∧ c.counter = some 0 := by
  simp [Channel.intervalDue, and_assoc]

/-- The first of the numbers 0 to 7 that answers a test. -/
theorem find?_numbers {p : Fin 8 → Bool} {n : Fin 8} (h : p n = true) (hm : ∀ m < n, p m = false) :
    ([0, 1, 2, 3, 4, 5, 6, 7] : List (Fin 8)).find? p = some n := by
  have at_ : ∀ k : Fin 8, ([0, 1, 2, 3, 4, 5, 6, 7] : List (Fin 8))[k.val]'k.isLt = k := by decide
  rw [List.find?_eq_some_iff_getElem]
  refine ⟨h, n.val, n.isLt, at_ n, fun j hj => ?_⟩
  have := at_ ⟨j, by omega⟩
  simp only at this
  rw [this, hm ⟨j, by omega⟩ hj]
  rfl

/-- Lines are looked through in order. -/
theorem find?_allLines {p : LineNo → Bool} {n : LineNo} (h : p n = true) (hm : ∀ m < n, p m = false) :
    allLines.find? p = some n := find?_numbers h hm

/-- Channels are looked through in order. -/
theorem find?_allChannels {p : ChannelNo → Bool} {n : ChannelNo} (h : p n = true) (hm : ∀ m < n, p m = false) :
    allChannels.find? p = some n := find?_numbers h hm

theorem find?_allLines_none {p : LineNo → Bool} (h : ∀ n, p n = false) : allLines.find? p = none := by
  simp [h]

theorem find?_allChannels_none {p : ChannelNo → Bool} (h : ∀ n, p n = false) : allChannels.find? p = none := by
  simp [h]

/-- No expiry is due while the time reference stands. -/
theorem State.dueExpiry_standing {s : State} (h : s.timeRuns = false) : s.dueExpiry = none := by
  simp [State.dueExpiry, h]

/-- The lowest line's reply timeout comes first. -/
theorem State.dueExpiry_reply {s : State} {n : LineNo} (h : s.timeRuns = true) (hn : (s.line n).replyDue = true)
    (hm : ∀ m < n, (s.line m).replyDue = false) : s.dueExpiry = some (.replyTimeout n) := by
  simp only [State.dueExpiry, h, if_true, find?_allLines (p := fun n => (s.line n).replyDue) hn hm]

/-- The lowest channel's interval comes next. -/
theorem State.dueExpiry_interval {s : State} {c : ChannelNo} (h : s.timeRuns = true)
    (hl : ∀ n, (s.line n).replyDue = false) (hc : (s.chan c).intervalDue = true)
    (hd : ∀ d < c, (s.chan d).intervalDue = false) : s.dueExpiry = some (.pollIntervalExpiry c) := by
  simp only [State.dueExpiry, h, if_true, find?_allLines_none (p := fun n => (s.line n).replyDue) hl,
    find?_allChannels (p := fun c => (s.chan c).intervalDue) hc hd]

/-- The Supervision Timer's expiry comes last. -/
theorem State.dueExpiry_supervision {s : State} (h : s.timeRuns = true) (hl : ∀ n, (s.line n).replyDue = false)
    (hc : ∀ c, (s.chan c).intervalDue = false) :
    s.dueExpiry = if s.sup.timer = some 0 then some .supervisionExpiry else none := by
  simp only [State.dueExpiry, h, if_true, find?_allLines_none (p := fun n => (s.line n).replyDue) hl,
    find?_allChannels_none (p := fun c => (s.chan c).intervalDue) hc]

end Sys2Proof.Machine
end

