-- ==== Sys2Proof/Laws/Events.lean ====
section
/-! SUPPORT. The Event Summary: conditions have places of their own, what a count is after a put and a raise, and what Read Events takes out. -/

namespace Sys2Proof.Machine

/-- Two conditions at one place of the summary are one condition. -/
theorem Condition.index_inj {x y : Condition} (h : x.index = y.index) : x = y := by
  have hv : x.index.val = y.index.val := congrArg Fin.val h
  cases x <;> cases y <;> first
    | rfl
    | (simp only [Condition.index] at hv; congr 1; apply Fin.ext; omega)
    | (simp [Condition.index] at hv; try omega)

/-- A count after a put. -/
theorem Events.count_put (e : Events) (c x : Condition) (v : Option Octet) :
    (e.put c v).count x = if x = c then v else e.count x := by
  by_cases h : x = c
  · subst h; simp [Events.put, Events.count]
  · have h' : c.index.val ≠ x.index.val := fun q => h (Condition.index_inj (Fin.ext q)).symm
    simp [Events.put, Events.count, Vector.getElem_set_ne, h', h]

/-- A count after a raise. -/
theorem Events.count_raise (e : Events) (c x : Condition) :
    (e.raise c).count x = if x = c then raisedCount (e.count c) else e.count x := Events.count_put e c x _

/-- What Read Events gives of a condition: nothing while it is absent. -/
def Events.given (e : Events) (x : Condition) : List Octet :=
  match e.count x with
  | none => []
  | some v => e.entry x v

/-- Read Events over a list of conditions: a first part of the list is given whole and becomes absent, the results
stay within 60 octets, and the next condition, if there is one, is present and would not fit. -/
theorem Events.drainInto_spec (e : Events) (cs : List Condition) (f : Events) (out : List Octet)
    (hn : cs.Nodup) (hl : out.length ≤ Config.maxResults) (hc : f.cause = e.cause) (hs : f.source = e.source)
    (he : ∀ x ∈ cs, f.count x = e.count x) :
    ∃ k,
      (Events.drainInto cs f out).2 = out ++ (cs.take k).flatMap e.given ∧
        (out ++ (cs.take k).flatMap e.given).length ≤ Config.maxResults ∧
        (Events.drainInto cs f out).1.cause = e.cause ∧ (Events.drainInto cs f out).1.source = e.source ∧
        (∀ x, (Events.drainInto cs f out).1.count x = if x ∈ cs.take k then none else f.count x) ∧
        ∀ x xs, cs.drop k = x :: xs →
          (e.count x).isSome = true ∧
            Config.maxResults < (out ++ (cs.take k).flatMap e.given ++ e.given x).length := by
  induction cs generalizing f out with
  | nil => exact ⟨0, by simp [Events.drainInto], by simpa using hl, hc, hs, by simp [Events.drainInto], by simp⟩
  | cons c cs ih =>
    have hec := he c (by simp)
    have hcn := List.nodup_cons.mp hn
    unfold Events.drainInto
    cases hv : f.count c with
    | none =>
      obtain ⟨k, h1, h2, h3, h4, h5, h6⟩ := ih f out hcn.2 hl hc hs fun x hx => he x (by simp [hx])
      have e0 : e.given c = [] := by simp [Events.given, ← hec, hv]
      refine ⟨k + 1, by simp [e0, h1], by simpa [e0] using h2, h3, h4, fun x => ?_, by simpa [e0] using h6⟩
      simp only [h5 x, List.take_succ_cons, List.mem_cons]
      by_cases hx : x = c
      · subst hx; simp [hv]
      · simp [hx]
    | some v =>
      have ent : f.entry c v = e.given c := by
        simp only [Events.given, ← hec, hv]
        cases c <;> simp [Events.entry, hc, hs]
      simp only [ent]
      split
      · rename_i hfit
        obtain ⟨k, h1, h2, h3, h4, h5, h6⟩ :=
          ih (f.put c none) (out ++ e.given c) hcn.2 hfit hc hs fun x hx => by
            have : x ≠ c := fun q => hcn.1 (q ▸ hx)
            simp [Events.count_put, this, he x (by simp [hx])]
        refine ⟨k + 1, by simp [h1], by simpa using h2, h3, h4, fun x => ?_, by simpa using h6⟩
        simp only [h5 x, Events.count_put, List.take_succ_cons, List.mem_cons]
        by_cases hx : x = c <;> simp [hx]
      · rename_i hfit
        refine ⟨0, by simp, by simpa using hl, hc, hs, by simp, fun x xs hx => ?_⟩
        simp only [List.drop_zero, List.cons.injEq] at hx
        obtain ⟨rfl, _⟩ := hx
        exact ⟨by simp [← hec, hv], by simp at hfit ⊢; omega⟩

end Sys2Proof.Machine
end

