-- ==== Sys2Proof/Laws/Execute.lean ====
section
/-! SUPPORT. The execution of a management command: what it comes to when a command is due and when none is, and what its answers add. -/

namespace Sys2Proof.Machine

/-- A command that is due and named is judged on the state it has left, answered, and the Supervision Timer is loaded. -/
theorem State.execute_due {s : State} {c : Command} {rest : List Command} {names : Command → Bool}
    {judge : Command → State → Judged} (h : s.Due c rest) (hn : names c = true) :
    s.execute names judge =
      ((judge c (s.dequeued rest)).state.respond c (judge c (s.dequeued rest)).reply).loadSupervision := by
  obtain ⟨h1, h2, h3⟩ := h
  simp [State.execute, h1, hn, Mgmt.mayExecute, h2, h3, State.dequeued]

/-- A row that does not name the command at the head changes nothing. -/
theorem State.execute_unnamed {s : State} {names : Command → Bool} {judge : Command → State → Judged}
    (h : ∀ c, s.mgmt.cib.head? = some c → names c = false) : s.execute names judge = s := by
  unfold State.execute
  split
  · rfl
  · rename_i c rest hc
    simp [h c (by simp [hc])]

/-- With an empty Command Input Buffer, a full Response Queue or an execution state other than READY nothing is
executed. -/
theorem State.execute_not_due {s : State} {names : Command → Bool} {judge : Command → State → Judged}
    (h : s.mgmt.cib = [] ∨ 4 ≤ s.mgmt.responses.length ∨ s.mgmt.exec ≠ .ready) : s.execute names judge = s := by
  unfold State.execute
  split
  · rfl
  · rename_i c rest hc
    have : s.mgmt.mayExecute = false := by
      rcases h with h | h | h
      · simp [hc] at h
      · simp [Mgmt.mayExecute, Config.responseQueueSize, Nat.not_lt.mpr h]
      · simp [Mgmt.mayExecute, h]
    simp [this]

/-- A refusal answers the command and changes nothing else. -/
@[simp] theorem State.refuse_respond (s : State) (rest : List Command) (c : Command) (st : Status) :
    (((refuse (s.dequeued rest) st).state.respond c (refuse (s.dequeued rest) st).reply).loadSupervision) =
      s.answered rest (c.answer st []) := rfl

/-- An OK answer joins the Response Queue behind the command's effect. -/
@[simp] theorem State.accept_respond (t : State) (c : Command) (results : List Octet) :
    (((accept t results).state.respond c (accept t results).reply).loadSupervision) =
      t.replied (c.answer .ok results) := rfl

/-- The names of the rows that are one command code. -/
@[simp] theorem hasCode_plain (code tag : Octet) (params : List Octet) :
    hasCode code (Command.plain code tag params) = true := by
  simp [hasCode, Command.plain]

end Sys2Proof.Machine
end

