-- ==== Sys2Proof/Laws/Losses.lean ====
section
/-! SUPPORT. Of the conditions of the Event Summary, line work raises LINE_LOSS alone, and an interruption of the parsers their two discards besides. -/

namespace Sys2Proof.Machine

/-- A condition that line work does not raise. -/
def Condition.notLoss (c : Condition) : Prop := ∀ n : LineNo, c ≠ .lineLoss n

/-- Every count but those of LINE_LOSS is as it was. -/
def State.OnlyLosses (s t : State) : Prop :=
  ∀ c : Condition, c.notLoss → t.mgmt.events.count c = s.mgmt.events.count c

theorem State.OnlyLosses.refl (s : State) : s.OnlyLosses s := fun _ _ => rfl

theorem State.OnlyLosses.trans {s t u : State} (h : s.OnlyLosses t) (k : t.OnlyLosses u) : s.OnlyLosses u :=
  fun c hc => (k c hc).trans (h c hc)

/-- A change that leaves the Event Summary alone. -/
theorem State.OnlyLosses.of_events {s t : State} (h : t.mgmt.events = s.mgmt.events) : s.OnlyLosses t :=
  fun c _ => by rw [h]

theorem State.OnlyLosses.modLine (s : State) (n : LineNo) (f : Line → Line) : s.OnlyLosses (s.modLine n f) :=
  .of_events rfl

theorem State.OnlyLosses.buffer (s : State) (b : Buffer) : s.OnlyLosses { s with buffer := b } := .of_events rfl

theorem State.OnlyLosses.raiseLoss (s : State) (n : LineNo) : s.OnlyLosses (s.raise (.lineLoss n)) := fun c hc => by
  rw [State.raise_events, Events.count_raise, if_neg (hc n)]

theorem State.OnlyLosses.endResponse (s : State) (n : LineNo) : s.OnlyLosses (s.endResponse n) := by
  unfold State.endResponse
  split
  · exact .refl s
  · exact .of_events (by rw [State.pollEnd_mgmt]; rfl)

theorem State.OnlyLosses.closeRecord (s : State) (n : LineNo) (c : CloseCause) : s.OnlyLosses (s.closeRecord n c) := by
  unfold State.closeRecord
  split
  · exact .refl s
  · dsimp only
    have h : s.OnlyLosses (if c = .truncated then (s.modLine n (Line.closeOpen c)).raise (.lineLoss n)
        else s.modLine n (Line.closeOpen c)) := by
      split
      · exact (State.OnlyLosses.modLine s n _).trans (.raiseLoss _ _)
      · exact .modLine _ _ _
    split
    · exact h
    · exact h.trans (.endResponse _ _)

theorem State.OnlyLosses.clearCont (s : State) (n : LineNo) : s.OnlyLosses (s.clearCont n) := by
  unfold State.clearCont
  split
  · exact .refl s
  · dsimp only
    split
    · exact (State.OnlyLosses.modLine _ _ _).trans (.endResponse _ _)
    · exact .modLine _ _ _

/-- Taking the stage raises LINE_LOSS alone. -/
theorem State.OnlyLosses.kept (s : State) (n : LineNo) : KeptByItems (State.OnlyLosses s) n where
  close _ _ h := h.trans (.closeRecord _ _ _)
  clear _ h := h.trans (.clearCont _ _)
  opens t st m u _ h hu := by
    unfold State.openRecord at hu
    split at hu
    · split at hu
      · cases hu
      · cases hu; exact h.trans (.of_events rfl)
    · cases hu
  grow t r u _ h hu := by
    unfold State.growRecord at hu
    split at hu
    · split at hu
      · cases hu
      · cases hu; exact h.trans (.of_events rfl)
    · cases hu
  append t e h := by
    unfold State.appendChar
    split
    · exact h
    · dsimp only
      split
      · exact (h.trans (.of_events rfl)).trans (.closeRecord _ _ _)
      · exact h.trans (.of_events rfl)
  select _ _ _ h := h.trans (.modLine _ _ _)
  ignored _ h := h.trans (.modLine _ _ _)

theorem State.OnlyLosses.drain (s : State) (n : LineNo) : s.OnlyLosses (s.drain n) :=
  State.drain_keeps (P := State.OnlyLosses s) (fun _ => .refl s) (fun _ => .refl s)
    (fun _ _ _ _ h ht => (State.OnlyLosses.kept s n).takeItem h ht) (fun _ h => h.trans (.modLine _ _ _))
    (fun t _ _ _ h =>
      (h.trans ((State.OnlyLosses.closeRecord t n .truncated).trans (.modLine _ _ _))).trans (.modLine _ _ _))

theorem State.OnlyLosses.tryBegin (s : State) (n : LineNo) : s.OnlyLosses (s.tryBegin n) :=
  State.tryBegin_keeps (fun _ _ _ _ => (State.OnlyLosses.modLine _ _ _).trans (.drain _ _)) (.refl s)

theorem State.OnlyLosses.serve (s : State) (n : LineNo) : s.OnlyLosses (s.serve n) :=
  (State.OnlyLosses.drain _ _).trans (.tryBegin _ _)

theorem State.OnlyLosses.retry (s : State) (n : LineNo) : s.OnlyLosses (s.retry n) := by
  unfold State.retry
  exact (State.OnlyLosses.of_events (t := { s.modLine n fun l => { l with starved := false } with
    buffer := { s.buffer with wakePtr := n } }) rfl).trans (.serve _ _)

theorem State.OnlyLosses.wakePass (s : State) : s.OnlyLosses s.wakePass :=
  State.wakePass_keeps (P := State.OnlyLosses s) (fun t n h _ _ => h.trans (.retry t n)) (.refl s)

theorem State.OnlyLosses.release (s : State) (chain : List Nat) (desc : Nat) :
    s.OnlyLosses (s.release chain desc) := (State.OnlyLosses.buffer s _).trans (.wakePass _)

/-! ### Interruptions -/

/-- Placing both parsers in WAIT_RESTART raises LINE_LOSS, DOWN_DISCARD and MGMT_DISCARD at most (R15). -/
theorem State.parsersWait_count (s : State) (c : Condition) (hc : c.notLoss) (hd : c ≠ .downDiscard)
    (hm : c ≠ .mgmtDiscard) : s.parsersWait.mgmt.events.count c = s.mgmt.events.count c := by
  have h1 : ∀ p : CmdParse, ∀ t : State, (t.interruptCommand p).mgmt.events.count c = t.mgmt.events.count c := by
    intro p t
    unfold State.interruptCommand
    split
    all_goals first
      | rfl
      | (simp only [State.discardCommand, State.raise_events, Events.count_raise, if_neg hm]; rfl)
  have h2 : ∀ (p : DownParse) (d : Discard) (t : State),
      (t.discardDown d p).mgmt.events.count c = t.mgmt.events.count c := by
    intro p d t
    simp only [State.discardDown, State.raise_events, Events.count_raise, if_neg hd]
  unfold State.parsersWait
  rw [h1]
  unfold State.interruptDown
  split
  all_goals first
    | rfl
    | exact h2 _ _ _
    | exact ((State.OnlyLosses.release _ _ _) c hc).trans (h2 _ _ _)

end Sys2Proof.Machine
end

