-- ==== Sys2Proof/Laws/Memory.lean ====
section
/-! SUPPORT. The octets of the Shared Buffer: a write keeps the canonical form, and what is read after a write. -/

namespace Sys2Proof.Machine

/-- Every address of the cells is above `k`. -/
def Memory.above (k : Nat) (m : List Host.Cell) : Prop := ∀ c ∈ m, k < c.1

/-- The canonical form, one cell at a time. -/
theorem Memory.wf_cons (a : Nat) (b : Octet) (m : List Host.Cell) :
    Memory.wf ((a, b) :: m) = true ↔ b ≠ Config.unwritten ∧ Memory.above a m ∧ Memory.wf m = true := by
  induction m generalizing a b with
  | nil => simp [Memory.wf, Memory.above]
  | cons c m ih =>
    obtain ⟨a', b'⟩ := c
    simp only [Memory.wf, Bool.and_eq_true, bne_iff_ne, ne_eq, decide_eq_true_eq, and_assoc]
    rw [ih a' b']
    constructor
    · rintro ⟨h1, h2, h3, h4, h5⟩
      refine ⟨h1, ?_, h3, h4, h5⟩
      intro c hc
      rcases List.mem_cons.mp hc with rfl | hc
      · exact h2
      · exact Nat.lt_trans h2 (h4 c hc)
    · rintro ⟨h1, h2, h3, h4, h5⟩
      exact ⟨h1, h2 (a', b') (by simp), h3, h4, h5⟩

/-- A write adds no address but its own. -/
theorem Memory.above_write {k j : Nat} {m : List Host.Cell} {v : Octet} (h : Memory.above k m) (hj : k < j) :
    Memory.above k (Memory.write m j v) := by
  induction m with
  | nil =>
    unfold Memory.write
    split
    · intro c hc; simp at hc
    · intro c hc; simp at hc; subst hc; exact hj
  | cons c m ih =>
    obtain ⟨a, b⟩ := c
    have ha : k < a := h (a, b) (by simp)
    have hm : Memory.above k m := fun c hc => h c (List.mem_cons_of_mem _ hc)
    unfold Memory.write
    split
    · split
      · exact h
      · intro c hc
        rcases List.mem_cons.mp hc with rfl | hc
        · exact hj
        · exact h c hc
    · split
      · split
        · exact hm
        · intro c hc
          rcases List.mem_cons.mp hc with rfl | hc
          · exact hj
          · exact hm c hc
      · intro c hc
        rcases List.mem_cons.mp hc with rfl | hc
        · exact ha
        · exact ih hm c hc

/-- A write keeps the canonical form. -/
theorem Memory.wf_write {m : List Host.Cell} (h : Memory.wf m = true) (k : Nat) (v : Octet) :
    Memory.wf (Memory.write m k v) = true := by
  induction m with
  | nil =>
    unfold Memory.write
    split
    · rfl
    · rename_i hv; simp [Memory.wf, hv]
  | cons c m ih =>
    obtain ⟨a, b⟩ := c
    obtain ⟨hb, ha, hm⟩ := (Memory.wf_cons a b m).mp h
    unfold Memory.write
    split
    · rename_i hk
      split
      · exact h
      · rename_i hv
        refine (Memory.wf_cons k v _).mpr ⟨hv, ?_, h⟩
        intro c hc
        rcases List.mem_cons.mp hc with rfl | hc
        · exact hk
        · exact Nat.lt_trans hk (ha c hc)
    · split
      · rename_i hk
        split
        · exact hm
        · rename_i hv; exact (Memory.wf_cons k v m).mpr ⟨hv, hk ▸ ha, hm⟩
      · rename_i h1 h2
        have hlt : a < k := by omega
        exact (Memory.wf_cons a b _).mpr ⟨hb, Memory.above_write ha hlt, ih hm⟩

/-- An address below every listed one reads as unwritten. -/
theorem Memory.read_of_above {k : Nat} {m : List Host.Cell} (h : Memory.above k m) : Memory.read m k = Config.unwritten := by
  induction m with
  | nil => rfl
  | cons c m ih =>
    obtain ⟨a, b⟩ := c
    have ha : k < a := h (a, b) (by simp)
    have hm : Memory.above k m := fun c hc => h c (List.mem_cons_of_mem _ hc)
    simp [Memory.read, Nat.ne_of_gt ha, ih hm]

/-- What was written is read. -/
theorem Memory.read_write_same {m : List Host.Cell} (h : Memory.wf m = true) (k : Nat) (v : Octet) :
    Memory.read (Memory.write m k v) k = v := by
  induction m with
  | nil =>
    unfold Memory.write
    split
    · rename_i hv; simp [Memory.read, hv]
    · simp [Memory.read]
  | cons c m ih =>
    obtain ⟨a, b⟩ := c
    obtain ⟨hb, ha, hm⟩ := (Memory.wf_cons a b m).mp h
    unfold Memory.write
    split
    · rename_i hk
      split
      · rename_i hv
        have : Memory.above k ((a, b) :: m) := by
          intro c hc
          rcases List.mem_cons.mp hc with rfl | hc
          · exact hk
          · exact Nat.lt_trans hk (ha c hc)
        rw [Memory.read_of_above this, hv]
      · simp [Memory.read]
    · split
      · rename_i hk
        subst hk
        split
        · rename_i hv; rw [Memory.read_of_above ha, hv]
        · simp [Memory.read]
      · rename_i h1 h2
        have : a ≠ k := fun e => h2 e.symm
        simp [Memory.read, this, ih hm]

/-- A write changes no other address. -/
theorem Memory.read_write_other {m : List Host.Cell} (h : Memory.wf m = true) {j k : Nat} (v : Octet) (hjk : j ≠ k) :
    Memory.read (Memory.write m k v) j = Memory.read m j := by
  induction m with
  | nil =>
    unfold Memory.write
    split
    · rfl
    · simp [Memory.read, Ne.symm hjk]
  | cons c m ih =>
    obtain ⟨a, b⟩ := c
    obtain ⟨hb, ha, hm⟩ := (Memory.wf_cons a b m).mp h
    unfold Memory.write
    split
    · split
      · rfl
      · simp [Memory.read, Ne.symm hjk]
    · split
      · rename_i hk
        have hak : a ≠ j := fun e => hjk (by omega)
        split
        · simp [Memory.read, hak]
        · simp [Memory.read, hak, Ne.symm hjk]
      · simp [Memory.read, ih hm]

/-- Storing an octet of a record keeps the canonical form. -/
theorem Buffer.storeOctet_wf {b : Buffer} (h : Memory.wf b.cells = true) (chain : List Nat) (k : Nat) (v : Octet) :
    Memory.wf (b.storeOctet chain k v).cells = true := Memory.wf_write h _ v

/-- Storing a payload keeps the canonical form. -/
theorem Buffer.storeAll_wf {b : Buffer} (h : Memory.wf b.cells = true) (chain : List Nat) (k : Nat) (vs : List Octet) :
    Memory.wf (b.storeAll chain k vs).cells = true := by
  induction vs generalizing b k with
  | nil => exact h
  | cons v vs ih => exact ih (Buffer.storeOctet_wf h chain k v) (k + 1)

@[simp] theorem Buffer.storeOctet_freeBlocks (b : Buffer) (chain : List Nat) (k : Nat) (v : Octet) :
    (b.storeOctet chain k v).freeBlocks = b.freeBlocks := rfl
@[simp] theorem Buffer.storeOctet_freeDescs (b : Buffer) (chain : List Nat) (k : Nat) (v : Octet) :
    (b.storeOctet chain k v).freeDescs = b.freeDescs := rfl
@[simp] theorem Buffer.storeOctet_wakePtr (b : Buffer) (chain : List Nat) (k : Nat) (v : Octet) :
    (b.storeOctet chain k v).wakePtr = b.wakePtr := rfl

/-- Storing a payload moves no block, no descriptor and not the wake pointer. -/
@[simp] theorem Buffer.storeAll_free (b : Buffer) (chain : List Nat) (k : Nat) (vs : List Octet) :
    (b.storeAll chain k vs).freeBlocks = b.freeBlocks ∧ (b.storeAll chain k vs).freeDescs = b.freeDescs ∧
      (b.storeAll chain k vs).wakePtr = b.wakePtr := by
  induction vs generalizing b k with
  | nil => exact ⟨rfl, rfl, rfl⟩
  | cons v vs ih => exact ih (b.storeOctet chain k v) (k + 1)

end Sys2Proof.Machine
end

