-- ==== Sys2Proof/Laws/Operands.lean ====
section
/-! SUPPORT. The parameter octets of the management commands: every field that is written is read back, and what is read is what was written. -/

namespace Sys2Proof.Machine

theorem natOctet_toNat (o : Octet) : natOctet o.toNat = o := by simp [natOctet]

theorem toNat_natOctet {k : Nat} (h : k ≤ 255) : (natOctet k).toNat = k := by
  simp only [natOctet, BitVec.toNat_ofNat]; omega

/-! ### One field -/

@[simp] theorem boolOf_boolOctet (b : Bool) : boolOf (boolOctet b) = some b := by cases b <;> rfl

theorem boolOf_eq_some {o : Octet} {b : Bool} (h : boolOf o = some b) : o = boolOctet b := by
  unfold boolOf at h
  split at h
  · rename_i ho; cases h; exact ho
  · split at h
    · rename_i ho; cases h; exact ho
    · cases h

theorem boolOf_eq_none {o : Octet} (h : 1 < o.toNat) : boolOf o = none := by
  unfold boolOf
  rw [if_neg (by rintro rfl; simp at h), if_neg (by rintro rfl; simp at h)]

theorem finOf_natOctet {n : Nat} (k : Fin n) (h : n ≤ 256) : finOf n (natOctet k.val) = some k := by
  simp [finOf, toNat_natOctet (k := k.val) (by omega)]

theorem finOf_eq_some {n : Nat} {o : Octet} {k : Fin n} (h : finOf n o = some k) : o = natOctet k.val := by
  unfold finOf at h
  split at h
  · cases h; exact (natOctet_toNat o).symm
  · cases h

theorem finOf_eq_none {n : Nat} {o : Octet} (h : n ≤ o.toNat) : finOf n o = none := by
  simp [finOf, Nat.not_lt.mpr h]

theorem natOf_natOctet {lo hi n : Nat} (h1 : lo ≤ n) (h2 : n ≤ hi) (h : hi ≤ 255) : natOf lo hi (natOctet n) = some n := by
  simp [natOf, toNat_natOctet (k := n) (by omega), h1, h2]

theorem natOf_eq_some {lo hi n : Nat} {o : Octet} (h : natOf lo hi o = some n) : o = natOctet n ∧ lo ≤ n ∧ n ≤ hi := by
  unfold natOf at h
  split at h
  · rename_i hb; cases h; exact ⟨(natOctet_toNat o).symm, hb⟩
  · cases h

theorem toNat_halfOf (hi lo : Octet) : (halfOf hi lo).toNat = hi.toNat * 256 + lo.toNat := by
  have e : (halfOf hi lo).toNat = hi.toNat <<< 8 ||| lo.toNat := BitVec.toNat_append hi lo
  rw [e, ← Nat.shiftLeft_add_eq_or_of_lt lo.isLt, Nat.shiftLeft_eq]

/-- Two octets of a number make it again (R182, R186). -/
theorem halfOf_parts (h : Half) : halfOf ((h >>> 8).setWidth 8) (h.setWidth 8) = h := by
  apply BitVec.eq_of_toNat_eq
  have := h.isLt
  rw [toNat_halfOf]
  simp [Nat.shiftRight_eq_div_pow]
  omega

/-- A number made of two octets is those two octets (R182, R186). -/
theorem halfOctets_halfOf (hi lo : Octet) : halfOctets (halfOf hi lo) = [hi, lo] := by
  have h1 := hi.isLt
  have h2 := lo.isLt
  have e1 : ((halfOf hi lo >>> 8).setWidth 8 : Octet) = hi := by
    apply BitVec.eq_of_toNat_eq
    rw [BitVec.toNat_setWidth, BitVec.toNat_ushiftRight, toNat_halfOf, Nat.shiftRight_eq_div_pow]
    omega
  have e2 : ((halfOf hi lo).setWidth 8 : Octet) = lo := by
    apply BitVec.eq_of_toNat_eq
    rw [BitVec.toNat_setWidth, toNat_halfOf]
    omega
  simp [halfOctets, e1, e2]

@[simp] theorem ownerOf_ownerOctet (o : Option LineNo) : ownerOf (ownerOctet o) = some o := by
  cases o with
  | none => rfl
  | some n => revert n; decide

/-! ### Records of fields -/

/-- Lawful line parameters are read back from their octets (R22, R189). -/
theorem LineParams.ofOctets_octets (p : LineParams) (h : p.Lawful) :
    LineParams.ofOctets p.rate.octet p.dataBits.octet p.parity.octet p.stopBits.octet (boolOctet p.addressMark)
      (natOctet p.gap) (natOctet p.maxLength) (natOctet p.quota) (natOctet p.replyTimeout) (boolOctet p.echo)
      (boolOctet p.wake) = some p := by
  obtain ⟨h1, h2, h3, h4, h5, h6, h7, h8, h9⟩ := h
  have hr : Rate.ofOctet p.rate.octet = some p.rate := by cases p.rate <;> rfl
  have hd : DataBits.ofOctet p.dataBits.octet = some p.dataBits := by cases p.dataBits <;> rfl
  have hp : Parity.ofOctet p.parity.octet = some p.parity := by cases p.parity <;> rfl
  have hs : StopBits.ofOctet p.stopBits.octet = some p.stopBits := by cases p.stopBits <;> rfl
  simp only [LineParams.ofOctets, hr, hd, hp, hs, boolOf_boolOctet, natOf_natOctet h1 h2 (by omega),
    natOf_natOctet h3 h4 (by omega), natOf_natOctet h5 h6 (by omega), natOf_natOctet h7 h8 (by omega),
    Option.bind_eq_bind, Option.bind_some]
  rw [if_neg]
  simp only [Bool.and_eq_true, Bool.not_eq_true', not_and]
  intro ha
  simp [h9 ha]

/-- What is read as line parameters is lawful and is what the octets say (R22, R189). -/
theorem LineParams.ofOctets_eq_some {r d p st m g ml q t e w : Octet} {x : LineParams}
    (h : LineParams.ofOctets r d p st m g ml q t e w = some x) :
    x.Lawful ∧ x.octets = [r, d, p, st, m, g, ml, q, t, e, w] := by
  simp only [LineParams.ofOctets, Option.bind_eq_bind, Option.bind_eq_some_iff] at h
  obtain ⟨r', hr, d', hd, p', hp, s', hs, m', hm, g', hg, ml', hml, q', hq, t', ht, e', he, w', hw, hx⟩ := h
  split at hx
  · cases hx
  · rename_i hne
    cases hx
    obtain ⟨rfl, g1, g2⟩ := natOf_eq_some hg
    obtain ⟨rfl, m1, m2⟩ := natOf_eq_some hml
    obtain ⟨rfl, q1, q2⟩ := natOf_eq_some hq
    obtain ⟨rfl, t1, t2⟩ := natOf_eq_some ht
    have hm' := boolOf_eq_some hm
    have he' := boolOf_eq_some he
    have hw' := boolOf_eq_some hw
    have hr' := List.find?_some hr
    have hd' := List.find?_some hd
    have hp' := List.find?_some hp
    have hs' := List.find?_some hs
    simp only [beq_iff_eq] at hr' hd' hp' hs'
    refine ⟨⟨g1, g2, m1, m2, q1, q2, t1, t2, fun hmm => ?_⟩, ?_⟩
    · simp only at hmm
      subst hmm
      simpa using hne
    · simp [LineParams.octets, hr', hd', hp', hs', hm', he', hw']

/-- A station entry is read back from its octets (R190). -/
theorem Station.ofOctets_octets (e : Station) :
    Station.ofOctets (boolOctet e.valid) (natOctet e.line.val) e.localAddr (boolOctet e.down) (boolOctet e.capture)
      (boolOctet e.replyDefault) = some e := by
  simp [Station.ofOctets, finOf_natOctet]

/-- What is read as a station entry is what the octets say (R190). -/
theorem Station.ofOctets_eq_some {v l a d c r : Octet} {e : Station} (h : Station.ofOctets v l a d c r = some e) :
    e.octets = [v, l, a, d, c, r] := by
  simp only [Station.ofOctets, Option.bind_eq_bind, Option.bind_eq_some_iff] at h
  obtain ⟨v1, h1, v2, h2, v3, h3, v4, h4, v5, h5, h6⟩ := h
  cases h6
  simp [Station.octets, ← boolOf_eq_some h1, ← finOf_eq_some h2, ← boolOf_eq_some h3, ← boolOf_eq_some h4,
    ← boolOf_eq_some h5]

/-- The nine octets of a channel's settings in Set Channel (R192). -/
def ChannelSettings.octets (p : ChannelSettings) : List Octet :=
  [natOctet p.target.val, natOctet p.baseIndex.val, natOctet p.baseCount, p.step.octet, p.mode.octet,
    boolOctet p.reload, p.trigger.octet] ++ halfOctets (BitVec.ofNat 16 p.interval)

/-- Lawful channel settings are read back from their octets (R134, R192). -/
theorem ChannelSettings.ofOctets_octets (p : ChannelSettings) (h : p.Lawful) :
    ChannelSettings.ofOctets (natOctet p.target.val) (natOctet p.baseIndex.val) (natOctet p.baseCount) p.step.octet
      p.mode.octet (boolOctet p.reload) p.trigger.octet (((BitVec.ofNat 16 p.interval) >>> 8).setWidth 8)
      ((BitVec.ofNat 16 p.interval).setWidth 8) = some p := by
  obtain ⟨h1, h2, h3, h4⟩ := h
  have hs : boolOf p.step.octet = some (p.step == .hold) := by cases p.step <;> rfl
  have hm : boolOf p.mode.octet = some (p.mode == .run) := by cases p.mode <;> rfl
  have ht : boolOf p.trigger.octet = some (p.trigger == .manual) := by cases p.trigger <;> rfl
  have hi : (BitVec.ofNat 16 p.interval).toNat = p.interval := by
    simp only [BitVec.toNat_ofNat]; omega
  simp only [ChannelSettings.ofOctets, finOf_natOctet _ (Nat.le_refl 8 |>.trans (by omega)),
    finOf_natOctet p.baseIndex (by omega), natOf_natOctet h1 h2 (by omega), hs, hm, ht, boolOf_boolOctet,
    halfOf_parts, hi, h3, h4, and_self, if_true, Option.bind_eq_bind, Option.bind_some]
  cases p with
  | mk t b c st m r tr i => cases st <;> cases m <;> cases tr <;> rfl

/-- What is read as channel settings is lawful and is what the octets say (R134, R192). -/
theorem ChannelSettings.ofOctets_eq_some {t b c st m r tr hi lo : Octet} {p : ChannelSettings}
    (h : ChannelSettings.ofOctets t b c st m r tr hi lo = some p) :
    p.Lawful ∧ p.octets = [t, b, c, st, m, r, tr, hi, lo] := by
  simp only [ChannelSettings.ofOctets, Option.bind_eq_bind, Option.bind_eq_some_iff] at h
  obtain ⟨v1, h1, v2, h2, v3, h3, v4, h4, v5, h5, v6, h6, v7, h7, h8⟩ := h
  split at h8
  · rename_i hb
    cases h8
    obtain ⟨rfl, c1, c2⟩ := natOf_eq_some h3
    refine ⟨⟨c1, c2, hb.1, hb.2⟩, ?_⟩
    have e4 := boolOf_eq_some h4
    have e5 := boolOf_eq_some h5
    have e6 := boolOf_eq_some h6
    have e7 := boolOf_eq_some h7
    simp only [ChannelSettings.octets, BitVec.ofNat_toNat, BitVec.setWidth_eq, halfOctets_halfOf,
      ← finOf_eq_some h1, ← finOf_eq_some h2, e4, e5, e6, e7]
    cases v4 <;> cases v5 <;> cases v7 <;> rfl
  · cases h8

end Sys2Proof.Machine
end

