-- ==== Sys2Proof/Laws/Responses.lean ====
section
/-! SUPPORT. The end of a response: what closing a record and clearing a continuation marking do when a response is in progress, and what they do when none is. -/

namespace Sys2Proof.Machine

/-- A response in progress ends with its wait (R67, R121). -/
theorem State.endResponse_some {s : State} {n : LineNo} {w : WaitName} (h : (s.line n).respMark = some w) :
    s.endResponse n = s.responseOver n w := by
  simp only [State.endResponse, h]
  rfl

/-- Closing the record of a response by any cause but its maximum length ends the response (R67). -/
theorem State.closeRecord_response {s : State} {n : LineNo} {c : CloseCause} {r : UpRecord} {w : WaitName}
    (h : (s.line n).openRec = some r) (hr : (s.line n).respMark = some w) (hc : c ≠ .maxLength) :
    s.closeRecord n c =
      (if c = .truncated then (s.modLine n (Line.closeOpen c)).raise (.lineLoss n)
        else s.modLine n (Line.closeOpen c)).responseOver n w := by
  simp only [State.closeRecord, h]
  rw [if_neg hc]
  refine State.endResponse_some ?_
  split <;> simp [Line.closeOpen, h, hr]

/-- Clearing the continuation marking of a response ends the response (R59, R67). -/
theorem State.clearCont_response {s : State} {n : LineNo} {m : Continuation} {w : WaitName}
    (h : (s.line n).cont = some m) (hm : m.kind = .response) (hr : (s.line n).respMark = some w) :
    s.clearCont n = (s.modLine n fun l => { l with cont := none, gapTimer := none }).responseOver n w := by
  simp only [State.clearCont, h, hm, if_true]
  exact State.endResponse_some (by simp [hr])

/-- Clearing the continuation marking of a DATA record ends nothing (R59). -/
theorem State.clearCont_data {s : State} {n : LineNo} {m : Continuation} (h : (s.line n).cont = some m)
    (hm : m.kind ≠ .response) : s.clearCont n = s.modLine n fun l => { l with cont := none, gapTimer := none } := by
  simp only [State.clearCont, h, hm, if_false]

/-- A change of the line that leaves alone the reply wait, the transmitter and the queue commutes with the end of a
response. -/
theorem State.responseOver_modLine (s : State) (n : LineNo) (w : WaitName) (f : Line → Line)
    (h : ∀ l : Line,
      f (Line.settleDrain { l with respMark := none, wait := none }) =
        Line.settleDrain { f l with respMark := none, wait := none }) :
    (s.responseOver n w).modLine n f = (s.modLine n f).responseOver n w := by
  have hp : ∀ (t : State), (t.pollEnd w.channel .answered).modLine n f = (t.modLine n f).pollEnd w.channel .answered := by
    intro t
    unfold State.pollEnd
    split <;> rfl
  simp only [State.responseOver]
  rw [hp, State.modLine_modLine, State.modLine_modLine]
  congr 1
  exact State.modLine_congr _ _ (h _)

/-- What a line's traffic turning away does: an open record closes with no flag and the continuation marking is
cleared; a response that this ends ends its wait (R59, R60, R67). -/
theorem State.turnAway_line (s : State) (n : LineNo) :
    let closed : State :=
      s.modLine n fun l =>
        match l.openRec with
        | none => { l with cont := none, gapTimer := if l.cont.isSome then none else l.gapTimer }
        | some r =>
          { l with
            openRec := none, cont := none, gapTimer := none, upQueue := l.upQueue ++ [r]
            counters := { l.counters with recordsClosed := satInc l.counters.recordsClosed } }
    let ends : Prop := (s.line n).openRec.isSome = true ∨ ∃ m, (s.line n).cont = some m ∧ m.kind = .response
    (((s.line n).respMark = none ∨ ¬ends) → s.turnAway n = closed) ∧
      ∀ w : WaitName, (s.line n).respMark = some w → ends → s.turnAway n = closed.responseOver n w := by
  intro closed ends
  cases ho : (s.line n).openRec with
  | none =>
    have e0 : s.turnAway n = s.clearCont n := by rw [State.turnAway, State.closeRecord_none .plain ho]
    cases hc : (s.line n).cont with
    | none =>
      have e1 : s.turnAway n = closed := by
        rw [e0, State.clearCont_none hc]
        symm
        apply State.modLine_id
        simp only [ho, hc, Option.isSome_none, Bool.false_eq_true, if_false]
        generalize s.line n = l at ho hc
        cases l
        simp_all
      refine ⟨fun _ => e1, fun w _ he => ?_⟩
      rcases he with he | ⟨m, hm, _⟩
      · simp [ho] at he
      · rw [hc] at hm; cases hm
    | some m =>
      have ec : s.modLine n (fun l => { l with cont := none, gapTimer := none }) = closed := by
        apply State.modLine_congr
        simp [ho, hc]
      refine ⟨fun h => ?_, fun w hw he => ?_⟩
      · rw [e0, ← ec]
        rcases h with h | h
        · exact State.clearCont_some hc h
        · exact State.clearCont_data hc fun hm => h (.inr ⟨m, hc, hm⟩)
      · rcases he with he | ⟨m', hm', hk⟩
        · simp [ho] at he
        · rw [hc] at hm'
          cases hm'
          rw [e0, State.clearCont_response hc hk hw, ec]
  | some r =>
    have hq : ∀ t : State, (t.line n).cont = none ∨ (t.line n).respMark = none →
        t.clearCont n = t.modLine n fun l =>
          { l with cont := none, gapTimer := if l.cont.isSome then none else l.gapTimer } := by
      intro t ht
      cases hc : (t.line n).cont with
      | none =>
        rw [State.clearCont_none hc]
        symm
        apply State.modLine_id
        simp only [hc, Option.isSome_none, Bool.false_eq_true, if_false]
        generalize t.line n = l at hc
        cases l
        simp_all
      | some m =>
        rw [State.clearCont_some hc (ht.resolve_left (by simp [hc]))]
        apply State.modLine_congr
        simp [hc]
    have ec : (s.modLine n (Line.closeOpen .plain)).modLine n (fun l =>
          { l with cont := none, gapTimer := if l.cont.isSome then none else l.gapTimer }) = closed := by
      rw [State.modLine_modLine]
      apply State.modLine_congr
      simp [Line.closeOpen, ho, UpRecord.closedBy]
    refine ⟨fun h => ?_, fun w hw _ => ?_⟩
    · have hr := h.resolve_right fun hn => hn (.inl (by simp [ho]))
      rw [State.turnAway, State.closeRecord_some ho hr (by simp), hq _ (.inr (by simp [Line.closeOpen, ho, hr])), ec]
    · rw [State.turnAway, State.closeRecord_response ho hw (by simp)]
      simp only [reduceCtorEq, if_false]
      rw [hq _ (.inr ?_), State.responseOver_modLine, ec]
      · intro l
        simp only [Line.settleDrain]
        split <;> simp_all
      · simp only [State.responseOver, State.pollEnd_line, State.modLine_line_self, Line.settleDrain]
        split <;> rfl

end Sys2Proof.Machine
end

