-- ==== Sys2Proof/Laws/Tables.lean ====
section
/-! SUPPORT. The Station Table's lookups and references, the Slot Map's shadow bank, and the station check of a poll grant. -/

namespace Sys2Proof.Machine

theorem mem_allLines (n : LineNo) : n ∈ allLines := by revert n; decide

theorem mem_allChannels (c : ChannelNo) : c ∈ allChannels := by revert c; decide

/-- A line waits for a station when its reply wait carries the station's number (R45). -/
theorem Line.waitsFor_iff (l : Line) (k : Octet) : l.waitsFor k = true ↔ ∃ w, l.wait = some w ∧ w.station = k := by
  unfold Line.waitsFor
  cases l.wait <;> simp

/-- A station is referenced when a line waits for it or has it selected (R45). -/
theorem State.referenced_iff (s : State) (k : Octet) :
    s.referenced k = true ↔
      ∃ n : LineNo, (∃ w, (s.line n).wait = some w ∧ w.station = k) ∨ (s.line n).selection = some k := by
  simp only [State.referenced, List.any_eq_true, mem_allLines, true_and, Bool.or_eq_true, beq_iff_eq,
    Line.waitsFor_iff]

/-- A reverse lookup finds a valid entry with the line, the local address and upstream capture (R44). -/
theorem State.reverse_some {s : State} {n : LineNo} {a k : Octet} (h : s.reverse n a = some k) :
    (s.station k).valid = true ∧ (s.station k).line = n ∧ (s.station k).localAddr = a ∧ (s.station k).capture = true := by
  unfold State.reverse at h
  obtain ⟨i, hi, rfl⟩ := Option.map_eq_some_iff.mp h
  obtain ⟨hl, hp, _⟩ := List.findIdx?_eq_some_iff_getElem.mp hi
  have hi' : i < 256 := by simpa using hl
  have e : s.station (natOctet i) = s.stations[i] := by
    simp only [State.station, toNat_natOctet (show i ≤ 255 by omega)]
  simp only [Vector.getElem_toList, Bool.and_eq_true, beq_iff_eq] at hp
  rw [e]
  exact ⟨hp.1.1.1, hp.1.1.2, hp.1.2, hp.2⟩

/-- A reverse lookup fails when no entry is valid with the line, the local address and upstream capture (R44). -/
theorem State.reverse_none {s : State} {n : LineNo} {a : Octet} (h : s.reverse n a = none) (k : Octet) :
    ¬((s.station k).valid = true ∧ (s.station k).line = n ∧ (s.station k).localAddr = a ∧
      (s.station k).capture = true) := by
  intro hk
  simp only [State.reverse, Option.map_eq_none_iff, List.findIdx?_eq_none_iff] at h
  have := h (s.station k) (by simp [State.station])
  simp [hk] at this

/-- An entry of the shadow bank is written, and no other entry changes (R91). -/
theorem SlotMap.writeShadow_entry (m : SlotMap) (k : SlotNo) (e : SlotEntry) (b : Fin 2) (j : SlotNo) :
    ((m.writeShadow k e).banks[b])[j] = if b ≠ m.active ∧ j = k then e else (m.banks[b])[j] := by
  obtain ⟨banks, a, sw⟩ := m
  have hb : ∀ a b : Fin 2, b ≠ a ↔ a + 1 = b := by decide
  simp only [SlotMap.writeShadow, hb, Fin.getElem_fin, Vector.getElem_set]
  by_cases h1 : a + 1 = b
  · subst h1
    by_cases h2 : j = k
    · subst h2; simp
    · have : k.val ≠ j.val := fun q => h2 (Fin.ext q.symm)
      simp [this, h2]
  · have : (a + 1).val ≠ b.val := fun q => h1 (Fin.ext q)
    simp [this, h1]

/-- The station check of a grant (R42, R145). -/
theorem State.grantStation_eq (s : State) (c : ChannelNo) (e : Script) :
    s.grantStation c e =
      if (s.station e.station).valid = true ∧ (s.station e.station).down = true ∧
          (s.station e.station).line = (s.chan c).settings.target then some (s.station e.station)
      else none := by
  simp only [State.grantStation, State.forward]
  cases h1 : (s.station e.station).valid <;> cases h2 : (s.station e.station).down <;> simp [h2]

end Sys2Proof.Machine
end

