-- ==== Sys2Proof/Laws/Taking.lean ====
section
/-! SUPPORT. Taking the stage item by item: an item's effect does not depend on what the stage holds, so the stage is taken as its first item and then what is behind it. -/

namespace Sys2Proof.Machine

/-- A state with other items in a line's stage. -/
def State.withStage (s : State) (n : LineNo) (x : List StageItem) : State :=
  s.modLine n fun l => { l with stage := x }

theorem State.withStage_line (s : State) (n : LineNo) (x : List StageItem) :
    (s.withStage n x).line n = { s.line n with stage := x } := by simp [State.withStage]

theorem State.withStage_withStage (s : State) (n : LineNo) (x y : List StageItem) :
    (s.withStage n x).withStage n y = s.withStage n y := by
  simp only [State.withStage, State.modLine_modLine]
  rfl

theorem State.withStage_self {s : State} {n : LineNo} {x : List StageItem} (h : (s.line n).stage = x) :
    s.withStage n x = s := by
  subst h
  exact State.modLine_id s n rfl

/-- A change of the line that leaves its stage alone. -/
theorem State.withStage_modLine (s : State) (n : LineNo) (x : List StageItem) (f : Line → Line)
    (hf : ∀ l : Line, f { l with stage := x } = { f l with stage := x }) :
    (s.withStage n x).modLine n f = (s.modLine n f).withStage n x := by
  unfold State.withStage
  rw [State.modLine_modLine, State.modLine_modLine]
  exact State.modLine_congr s n (hf _)

theorem State.withStage_pollEnd (s : State) (n : LineNo) (x : List StageItem) (c : Octet) (o : PollOutcome) :
    (s.withStage n x).pollEnd c o = (s.pollEnd c o).withStage n x := by
  unfold State.pollEnd
  split <;> rfl

/-! ### The one-line operations -/

theorem State.withStage_endResponse (s : State) (n : LineNo) (x : List StageItem) :
    (s.withStage n x).endResponse n = (s.endResponse n).withStage n x := by
  unfold State.endResponse
  simp only [State.withStage_line]
  split
  · rfl
  · rw [State.withStage_modLine, State.withStage_pollEnd]
    intro l
    unfold Line.settleDrain
    dsimp only
    split <;> rfl

theorem Line.closeOpen_stage (c : CloseCause) (l : Line) (x : List StageItem) :
    Line.closeOpen c { l with stage := x } = { Line.closeOpen c l with stage := x } := by
  unfold Line.closeOpen
  dsimp only
  split <;> rfl

theorem State.withStage_closeRecord (s : State) (n : LineNo) (c : CloseCause) (x : List StageItem) :
    (s.withStage n x).closeRecord n c = (s.closeRecord n c).withStage n x := by
  unfold State.closeRecord
  simp only [State.withStage_line]
  split
  · rfl
  · rw [State.withStage_modLine _ _ _ _ fun l => Line.closeOpen_stage c l x]
    have h : ∀ (p : Prop) [Decidable p] (u : State) (k : Condition),
        (if p then (u.withStage n x).raise k else u.withStage n x) = (if p then u.raise k else u).withStage n x := by
      intro p _ u k
      split <;> rfl
    rw [h]
    split
    · rfl
    · rw [State.withStage_endResponse]

theorem State.withStage_clearCont (s : State) (n : LineNo) (x : List StageItem) :
    (s.withStage n x).clearCont n = (s.clearCont n).withStage n x := by
  unfold State.clearCont
  simp only [State.withStage_line]
  split
  · rfl
  · rw [State.withStage_modLine _ _ _ _ fun l => rfl]
    split
    · rw [State.withStage_endResponse]
    · rfl

theorem State.withStage_turnAway (s : State) (n : LineNo) (x : List StageItem) :
    (s.withStage n x).turnAway n = (s.turnAway n).withStage n x := by
  unfold State.turnAway
  rw [State.withStage_closeRecord, State.withStage_clearCont]

theorem State.withStage_growthAllowed (s : State) (n : LineNo) (x : List StageItem) :
    (s.withStage n x).growthAllowed n = s.growthAllowed n := by
  unfold State.growthAllowed
  rw [State.withStage_line]
  rfl

theorem State.withStage_openRecord (s : State) (n : LineNo) (st : Option Octet) (m : Bool) (x : List StageItem) :
    (s.withStage n x).openRecord n st m = (s.openRecord n st m).map fun t => t.withStage n x := by
  have ho : (s.withStage n x).openingAllowed n = s.openingAllowed n := by
    unfold State.openingAllowed
    rw [State.withStage_growthAllowed]
    rfl
  have hb : (s.withStage n x).buffer = s.buffer := rfl
  unfold State.openRecord
  rw [ho, hb]
  split
  · split
    · rfl
    · rename_i d k b _
      exact congrArg some
        (State.withStage_modLine { s with buffer := b } n x (Line.openNew st m d k) fun l => rfl)
  · rfl

theorem State.withStage_growRecord (s : State) (n : LineNo) (r : UpRecord) (x : List StageItem) :
    (s.withStage n x).growRecord n r = (s.growRecord n r).map fun t => t.withStage n x := by
  have hb : (s.withStage n x).buffer = s.buffer := rfl
  unfold State.growRecord
  rw [State.withStage_growthAllowed, hb]
  split
  · split
    · rfl
    · rename_i k b _
      exact congrArg some
        (State.withStage_modLine { s with buffer := b } n x
          (fun l => { l with openRec := some { r with chain := r.chain ++ [k] } }) fun l => rfl)
  · rfl

theorem State.withStage_appendChar (s : State) (n : LineNo) (e : StageEntry) (x : List StageItem) :
    (s.withStage n x).appendChar n e = (s.appendChar n e).withStage n x := by
  unfold State.appendChar
  simp only [State.withStage_line]
  split
  · rfl
  · rename_i r _
    have h : { s.withStage n x with buffer := (s.withStage n x).buffer.storeOctet r.chain r.length e.value }.modLine n
          (fun l => { l with openRec := some (r.append e) }) =
        ({ s with buffer := s.buffer.storeOctet r.chain r.length e.value }.modLine n
          fun l => { l with openRec := some (r.append e) }).withStage n x :=
      State.withStage_modLine { s with buffer := s.buffer.storeOctet r.chain r.length e.value } n x _ fun l => rfl
    rw [h]
    split
    · rw [State.withStage_closeRecord]
    · rfl

theorem State.withStage_select (s : State) (n : LineNo) (k : Option Octet) (x : List StageItem) :
    (s.withStage n x).select n k = (s.select n k).withStage n x := State.withStage_modLine _ n x _ fun _ => rfl

theorem State.withStage_ignored (s : State) (n : LineNo) (x : List StageItem) :
    (s.withStage n x).ignored n = (s.ignored n).withStage n x := State.withStage_modLine _ n x _ fun _ => rfl

theorem State.withStage_starve (s : State) (n : LineNo) (x : List StageItem) :
    (s.withStage n x).starve n = (s.starve n).withStage n x := by
  unfold State.starve
  rw [State.withStage_closeRecord]
  exact State.withStage_modLine _ n x _ fun _ => rfl

/-! ### Items -/

theorem State.withStage_takeData (s : State) (n : LineNo) (st : Option Octet) (m : Bool) (e : StageEntry)
    (x : List StageItem) :
    (s.withStage n x).takeData n st m e = (s.takeData n st m e).map fun t => t.withStage n x := by
  unfold State.takeData
  simp only [State.withStage_line]
  split
  · split
    · simp only [State.withStage_growRecord, Option.map_map, Function.comp_def, State.withStage_appendChar]
    · simp only [State.withStage_appendChar, Option.map_some]
  · simp only [State.withStage_openRecord, Option.map_map, Function.comp_def, State.withStage_appendChar]

theorem State.withStage_takeBreak (s : State) (n : LineNo) (st : Option Octet) (m : Bool) (x : List StageItem) :
    (s.withStage n x).takeBreak n st m = (s.takeBreak n st m).map fun t => t.withStage n x := by
  unfold State.takeBreak
  simp only [State.withStage_line]
  split
  · simp only [State.withStage_closeRecord, Option.map_some]
  · simp only [State.withStage_openRecord, Option.map_map, Function.comp_def, State.withStage_closeRecord]

theorem State.withStage_takeAddress (s : State) (n : LineNo) (e : StageEntry) (x : List StageItem) :
    (s.withStage n x).takeAddress n e = (s.takeAddress n e).withStage n x := by
  have hr : ∀ (u : State) (a : Octet), (u.withStage n x).reverse n a = u.reverse n a := fun _ _ => rfl
  unfold State.takeAddress
  rw [State.withStage_turnAway]
  simp only [hr]
  split
  · rw [State.withStage_select]
  · rw [State.withStage_select, State.withStage_ignored]

/-- An item's effect does not depend on what the stage holds. -/
theorem State.withStage_takeItem (s : State) (n : LineNo) (m : Bool) (i : StageItem) (x : List StageItem) :
    (s.withStage n x).takeItem n m i = (s.takeItem n m i).map fun t => t.withStage n x := by
  have hr : ∀ (u : State) (a : Octet), (u.withStage n x).reverse n a = u.reverse n a := fun _ _ => rfl
  unfold State.takeItem
  split
  · unfold State.takeEntry
    simp only [State.withStage_line]
    split
    · split
      · exact State.withStage_takeBreak _ _ _ _ _
      · exact State.withStage_takeData _ _ _ _ _ _
    · split
      · rw [State.withStage_takeAddress]; rfl
      · split
        · rw [State.withStage_ignored]; rfl
        · split
          · simp only [State.withStage_takeBreak, Option.map_map, Function.comp_def, State.withStage_select]
          · exact State.withStage_takeData _ _ _ _ _ _
  · simp only [State.withStage_turnAway, hr, State.withStage_select, Option.map_some]
  · simp only [State.withStage_turnAway, Option.map_some]

theorem State.withStage_takeItems (n : LineNo) (items : List StageItem) (s : State) (x : List StageItem) :
    State.takeItems n items (s.withStage n x) = State.takeItems n items s := by
  induction items generalizing s with
  | nil => exact State.withStage_withStage s n x []
  | cons i rest ih =>
    unfold State.takeItems
    rw [State.withStage_takeItem]
    cases s.takeItem n (rest.any StageItem.isMarker) i with
    | some t => exact ih t
    | none =>
      dsimp only [Option.map_none]
      rw [State.withStage_starve]
      exact State.withStage_withStage _ n x (i :: rest)

/-! ### What items leave of the line -/

theorem State.pollEnd_starved (s : State) (n : LineNo) (c : Octet) (o : PollOutcome) :
    ((s.pollEnd c o).line n).starved = (s.line n).starved := by
  unfold State.pollEnd
  split <;> rfl

theorem State.endResponse_starved (s : State) (n : LineNo) :
    ((s.endResponse n).line n).starved = (s.line n).starved := by
  unfold State.endResponse
  split
  · rfl
  · rw [State.pollEnd_starved, State.modLine_line_self]
    unfold Line.settleDrain
    split <;> rfl

theorem State.closeRecord_starved (s : State) (n : LineNo) (c : CloseCause) :
    ((s.closeRecord n c).line n).starved = (s.line n).starved := by
  have h : ((s.modLine n (Line.closeOpen c)).line n).starved = (s.line n).starved := by
    rw [State.modLine_line_self]
    unfold Line.closeOpen
    split <;> rfl
  have k : ((if c = .truncated then (s.modLine n (Line.closeOpen c)).raise (.lineLoss n)
      else s.modLine n (Line.closeOpen c)).line n).starved = (s.line n).starved := by
    split
    · exact h
    · exact h
  unfold State.closeRecord
  split
  · rfl
  · dsimp only
    split
    · exact k
    · rw [State.endResponse_starved]; exact k

theorem State.clearCont_starved (s : State) (n : LineNo) :
    ((s.clearCont n).line n).starved = (s.line n).starved := by
  unfold State.clearCont
  split
  · rfl
  · dsimp only
    split
    · rw [State.endResponse_starved, State.modLine_line_self]
    · rw [State.modLine_line_self]

/-- Items that are taken leave the line out of the starved set. -/
theorem State.starved_kept (n : LineNo) (b : Bool) : KeptByItems (fun s => (s.line n).starved = b) n where
  close s c h := (State.closeRecord_starved s n c).trans h
  clear s h := (State.clearCont_starved s n).trans h
  opens s st m t _ h ht := by
    unfold State.openRecord at ht
    split at ht
    · split at ht
      · cases ht
      · cases ht; rw [State.modLine_line_self]; exact h
    · cases ht
  grow s r t _ h ht := by
    unfold State.growRecord at ht
    split at ht
    · split at ht
      · cases ht
      · cases ht; rw [State.modLine_line_self]; exact h
    · cases ht
  append s e h := by
    unfold State.appendChar
    split
    · exact h
    · rename_i r _
      have k : (({ s with buffer := s.buffer.storeOctet r.chain r.length e.value }.modLine n fun l =>
          { l with openRec := some (r.append e) }).line n).starved = b := by
        rw [State.modLine_line_self]; exact h
      dsimp only
      split
      · rw [State.closeRecord_starved]; exact k
      · exact k
  select s k _ h := by unfold State.select; rw [State.modLine_line_self]; exact h
  ignored s h := by unfold State.ignored; rw [State.modLine_line_self]; exact h

/-! ### The stage, item by item -/

/-- A marker waits among items exactly when one of them is no entry. -/
theorem StageItem.any_isMarker_iff (items : List StageItem) :
    items.any StageItem.isMarker = true ↔ ∃ i ∈ items, ∀ e : StageEntry, i ≠ .char e := by
  have h : ∀ i : StageItem, i.isMarker = true ↔ ∀ e : StageEntry, i ≠ .char e := by
    intro i
    cases i with
    | char e => exact ⟨fun h => (by cases h), fun h => absurd rfl (h e)⟩
    | txSelect a => exact ⟨fun _ _ h => (by cases h), fun _ => rfl⟩
    | txBoundary => exact ⟨fun _ _ h => (by cases h), fun _ => rfl⟩
  simp only [List.any_eq_true, h]

/-- An empty stage holds nothing to take. -/
theorem State.drain_nil {s : State} {n : LineNo} (h : (s.line n).stage = []) : s.drain n = s := by
  unfold State.drain
  split
  · rfl
  · rw [h]; exact State.withStage_self h

/-- The oldest item is taken, and then the items behind it (R28, R55, R60). -/
theorem State.drain_taken {s t : State} {n : LineNo} {i : StageItem} {rest : List StageItem}
    (h : (s.line n).starved = false) (hs : (s.line n).stage = i :: rest)
    (ht : s.takeItem n (rest.any StageItem.isMarker) i = some t) :
    s.drain n = (t.withStage n rest).drain n := by
  have k : (t.line n).starved = false := (State.starved_kept n false).takeItem (P := fun u => (u.line n).starved = false) h ht
  have e : s.drain n = State.takeItems n rest t := by
    unfold State.drain
    rw [if_neg (by simp [h]), hs, State.takeItems, ht]
  unfold State.drain at e ⊢
  rw [e, State.withStage_line, if_neg (by simp [k])]
  exact (State.withStage_takeItems n rest t rest).symm

/-- The oldest item needs storage it cannot get: it and those behind it stay, and the line is starved (R63). -/
theorem State.drain_refused {s : State} {n : LineNo} {i : StageItem} {rest : List StageItem}
    (h : (s.line n).starved = false) (hs : (s.line n).stage = i :: rest)
    (ht : s.takeItem n (rest.any StageItem.isMarker) i = none) :
    s.drain n = s.starve n := by
  unfold State.drain
  rw [if_neg (by simp [h]), hs, State.takeItems, ht]
  show (s.starve n).withStage n (i :: rest) = s.starve n
  rw [← State.withStage_starve, State.withStage_self hs]

end Sys2Proof.Machine
end

