-- ==== Sys2Proof/WellFormed.lean ====
section
/-! DEFINITION. Which commands are well formed: a frame is judged when a bit arrives (R3). Every other operand is bounded by its type. -/

namespace Sys2Proof

/-- A command is well formed when a judgement comes with at least one bit (R3); every other operand is bounded by its
type. -/
def Instr.wellFormed : Instr → Bool
  | .downstreamFrameJudged bits octets => !(bits.isEmpty && octets.isEmpty)
  | .upstreamFrameStart | .upstreamDataSlot | .managementSlot | .quietEntry | .characterComplete _ _
  | .breakHoldEnd _ | .settleEnd _ | .gapExpiry _ | .replyTimeout _ | .transmitRestEnd _
  | .transmitRecordEnd _ | .pollIntervalExpiry _ | .pollGrant | .supervisionExpiry | .powerOnReset
  | .pinReset | .resetEnd | .trunkWake | .lineWake _ | .readIdent | .readEvents | .readCounters
  | .resetDevice | .resetLines | .resetCounters | .setSupervision | .enterQuiet | .setLine | .readLine
  | .receiverOn | .receiverOff | .transmitterOn | .transmitterOff | .flush | .writeStation
  | .invalidateStation | .readStation | .writeSlot | .readSlot | .swapBanks | .writeScript | .readScript
  | .setChannel | .readChannel | .arm | .mask | .pollNow | .setArbitration | .readBuffer | .unknownCommand
  | .overlengthCommand | .lineControl | .startEdge _ | .startBitSample _ _ | .lineLowInWait _ => true

end Sys2Proof
end

