-- ==== Sys2Proof/Tests/Slice0.lean ====
section
/-! SUPPORT. The model's own tests: the well-formedness check, the manual's examples on one step each, and for every statement a state and operands that meet its hypotheses. -/

namespace Sys2Proof.Tests

open Sys2Proof Sys2Proof.Machine

set_option Elab.async false

/-! ### Small states -/

/-- The state after a command, or the state itself when the step does not go on. -/
def after (c : Instr) (s : State) : State :=
  match exec c s with
  | .next t => t
  | .fault _ => s
  | .refused _ => s

/-- The reset state with one line changed. -/
def onLine (n : LineNo) (f : Line → Line) : State := State.reset.modLine n f

/-- The reset state with the framer changed. -/
def onFramer (f : Framer → Framer) : State := { State.reset with framer := f State.reset.framer }

/-- A state in which one management command is due. -/
def due (c : Command) (s : State) : State := { s with mgmt := { s.mgmt with cib := [c] } }

/-- The response a state holds last. -/
def answer (s : State) : Option (List Octet) := s.mgmt.responses.getLast?.map Response.octets

/-- A frame with a header, data slots and a management slot, and its right check octet. -/
def frame (header : Octet) (slots : List Octet) (management : Octet) : List Octet :=
  let body := header :: (slots ++ List.replicate (28 - slots.length) 0x00) ++ [management]
  0xD3 :: body ++ [crc8 body]

/-- The bits of octets, received in one step. -/
def received (octets : List Octet) : Instr := .downstreamFrameJudged [] octets

/-- A frame whose check octet is wrong. -/
def badFrame : List Octet := 0xD3 :: List.replicate 30 0x00 ++ [0xFF]

/-- A station on a line, valid in both directions. -/
def stationOn (n : LineNo) (a : Octet) : Station :=
  { valid := true, line := n, localAddr := a, down := true, capture := true, replyDefault := false }

/-- A stage entry without status. -/
def entryOf (v : Octet) (mark brk : Bool) : StageEntry :=
  { value := v, mark := mark, parity := false, framing := false, brk := brk, overrunBefore := false }

/-- An open record with no octet. -/
def record0 : UpRecord :=
  { desc := 0, chain := [0], kind := .data, length := 0
    flags :=
      { parity := false, framing := false, overrun := false, brk := false, truncated := false, continued := false
        late := false }
    station := none, channel := none, firstError := none }

/-- A downstream record of one octet. -/
def down0 (n : LineNo) (reply : Bool) : DownRecord :=
  { desc := 0, chain := [0], origin := .headEnd, brk := false, reply := reply, station := 0x05, line := n
    localAddr := 0x41, channel := 0xFF, length := 1 }

/-- A reply wait that has not begun and whose timeout has elapsed. -/
def wait0 : ReplyWait := { station := 0x05, channel := 0x02, begun := false, timer := some 0 }

/-- A running part, transmit-enabled and with its streams RUNNING. -/
def running (s : State) : State :=
  { s with framer := { s.framer with rx := .operational, farAlarm := false, running := true } }

/-- A state in which a frame has its first `n + 1` octets. -/
def inFrame (n : Nat) (s : State) : State :=
  { s with framer := { s.framer with txOctets := 0xD3 :: List.replicate n 0x00 } }

/-- A state whose slot `k` of bank 0 belongs to line 2 in every frame. -/
def ownedSlot (k : SlotNo) (s : State) : State :=
  { s with
    slots :=
      { s.slots with
        banks := s.slots.banks.set 0 ((s.slots.banks[(0 : Fin 2)]).set k { owner := some 2, frames := 0xFFFF }) } }

/-- A state with a response waiting or being sent. -/
def responding (g : Governs) (p : StreamPos) (s : State) : State :=
  { s with
    mgmt :=
      { s.mgmt with responses := [{ tag := 0x07, code := 0x06, status := .ok, results := [], governs := g }] }
    serializer := { s.serializer with mgmtPos := p } }

/-- A character entry taken next by the Record Assembler of line 2. -/
def taking (e : StageEntry) (f : Line → Line) : State :=
  onLine 2 fun l => f { l with rx := .hunt, stage := [.char e] }

/-- A state in which line `n` has its transmitter on and is in a reply wait. -/
def waiting (n : LineNo) (s : State) : State := s.modLine n fun l => { l with txMode := .on, wait := some wait0 }

/-- A part in its Quiet state whose receiver of line 1 watches. -/
def quietPart : State :=
  { (onLine 1 fun l => { l with rx := .watch, params := { l.params with wake := true } }) with
    framer := { State.reset.framer with rx := .quiet }
    quiet := { State.reset.quiet with flag := true, wakeOnTrunk := true } }

/-- A channel with its request pending on line 3, which is on, and a script entry for station 20. -/
def pollReady (st : Station) : State :=
  { (((onLine 3 fun l => { l with txMode := .on }).modChan 1 fun c =>
      { c with
        armed := true, pending := true, count := 1, settings := { c.settings with target := 3 } }).setStation 20 st) with
    poll :=
      { (((onLine 3 fun l => { l with txMode := .on }).modChan 1 fun c =>
          { c with
            armed := true, pending := true, count := 1, settings := { c.settings with target := 3 } })).poll with
        script := State.reset.poll.script.set 0 { station := 20, reply := true, payload := [0x41] } } }

/-! ### Well-formedness and decoding -/

theorem test_no_bits_are_ill_formed : (Instr.downstreamFrameJudged [] []).wellFormed = false := by decide

theorem test_bits_are_well_formed : (Instr.downstreamFrameJudged [true] []).wellFormed = true := by decide

theorem test_no_word_spells_a_command : decodeTableWord 8 0x43 = none := rfl

/-! ### The manual's formats -/

theorem test_bits_of_the_sync_octet :
    octetBits 0xD3 = [true, true, false, true, false, false, true, true] := by decide

theorem test_check_octet_of_30_fill_octets : crc8 (List.replicate 30 0x00) = 0x00 := by decide +kernel

theorem test_no_reply_record_octets :
    (noReplyRecord { station := 0x11, channel := 0x03, begun := false, timer := none } 7).header =
      [0x23, 0x00, 0x80, 0x11, 0x03] := by decide

theorem test_header_of_frame_5_with_attention : headerOctet true false 0 false 5 = 0x85 := by decide

theorem test_parity_of_41_even : charWave { LineParams.default with parity := .even } 0x41 false =
    [false, true, false, false, false, false, false, true, false, false, true] := by decide

theorem test_address_character : charWave { LineParams.default with addressMark := true } 0x03 true =
    [false, true, true, false, false, false, false, false, false, true, true] := by decide

/-! ### The trunk link (sections 1.6, 1.7, 6.8, 10.5) -/

theorem test_first_good_frame_enters_confirm :
    let t := after (received (frame 0x09 [] 0x00)) State.reset
    t.framer.rx = .confirm ∧ t.framer.goodCount = 1 ∧ t.framer.alignPos = 0 := by decide +kernel

theorem test_false_sync_octet_is_dropped_alone :
    let t := after (.downstreamFrameJudged (true :: octetBits 0xD3) (frame 0x09 [] 0x00)) State.reset
    t.framer.rx = .confirm ∧ t.framer.alignPos = 9 := by decide +kernel

theorem test_sync_octet_opens_a_candidate :
    (after (.downstreamFrameJudged (octetBits 0xD3 ++ [true]) []) State.reset).framer.candidates =
      [octetBits 0xD3 ++ [true]] := by decide +kernel

theorem test_bits_before_the_frame_end_are_kept :
    (after (.downstreamFrameJudged [true, false] []) (onFramer fun f => { f with rx := .aligned })).framer.rxBits =
      [true, false] := by decide +kernel

theorem test_frame_0_with_restart_releases_the_parsers :
    let t := after (received (frame (headerOctet false true 0 true 0) [] 0x02))
      (onFramer fun f => { f with rx := .aligned })
    t.framer.rx = .operational ∧ t.framer.expected = 1 ∧ t.framer.restarts = 1 ∧ t.framer.farAlarm = true ∧
      t.parser.parse = .between ∧ t.mgmt.parse = .length 0x02 := by decide +kernel

theorem test_cycle_slip :
    let t := after (received (frame 0x07 [] 0x00))
      { running State.reset with
        framer := { (running State.reset).framer with expected := 6 }
        parser := { State.reset.parser with parse := .header .send (some 4) } }
    t.framer.rx = .aligned ∧ t.framer.slips = 1 ∧ t.framer.running = false ∧ t.parser.parse = .waitRestart ∧
      t.mgmt.events.count .trunk = some 1 ∧ t.mgmt.events.count .downDiscard = some 1 ∧
      t.parser.discards.interrupted = 1 := by decide +kernel

theorem test_streams_run_from_frame_0 :
    let t := after .upstreamFrameStart (onFramer fun f => { f with rx := .operational, farAlarm := false })
    t.framer.txOctets = [0xD3, 0x90] ∧ t.framer.running = true ∧ t.framer.txNumber = 1 := by decide +kernel

theorem test_frame_0_after_reset_is_sent_with_remote_alarm :
    (after .upstreamFrameStart State.reset).framer.txOctets = [0xD3, 0xC0] := by decide +kernel

theorem test_data_slot_sends_a_kind_octet :
    let t := after .upstreamDataSlot (ownedSlot 0 (inFrame 1 (running (onLine 2 fun l => { l with upQueue := [record0] }))))
    t.framer.txOctets = [0xD3, 0x00, 0x21] ∧ (t.line 2).pos = .sending 1 := by decide +kernel

theorem test_management_slot_sends_01 :
    let t := after .managementSlot (inFrame 29 (running (responding .nothing .idle State.reset)))
    t.framer.txOctets.getLast? = some 0x01 ∧ t.serializer.mgmtPos = .sending 1 := by decide +kernel

theorem test_device_reset_at_the_fifth_octet :
    let t := after .managementSlot (inFrame 29 (running (responding .deviceReset (.sending 4) State.reset)))
    t.framer.rx = .search ∧ t.framer.txOctets.length = 31 ∧ t.mgmt.events.cause = .command ∧
      t.mgmt.responses = [] ∧ t.quiet.lastCause = .command := by decide +kernel

theorem test_quiet_entry_watches :
    let t := after .quietEntry
      (inFrame 30 { (onLine 1 fun l => { l with rx := .hunt }) with framer := { State.reset.framer with rx := .quiet } })
    t.quiet.flag = true ∧ (t.line 1).rx = .watch ∧ (t.line 0).rx = .off := by decide +kernel

/-! ### Receivers and records (sections 2.5, 4.9) -/

theorem test_start_edge : ((after (.startEdge 2) (onLine 2 fun l => { l with rx := .hunt })).line 2).rx = .start := by
  decide +kernel

theorem test_false_start :
    ((after (.startBitSample 2 true) (onLine 2 fun l => { l with rx := .start })).line 2).rx = .hunt := by decide +kernel

theorem test_character_opens_a_record :
    let t := after (.characterComplete 2 0x141) (onLine 2 fun l => { l with rx := .receiving })
    (t.line 2).rx = .hunt ∧ (t.line 2).counters.characters = 1 ∧
      (t.line 2).openRec.map (fun r => (r.kind, r.length, r.chain)) = some (.data, 1, [0]) ∧
      t.buffer.payloadOctet [0] 0 = 0x41 ∧ t.buffer.freeBlocks.length = 511 ∧ t.buffer.freeDescs.length = 191 := by
  decide +kernel

theorem test_low_line_is_a_break :
    let t := after (.characterComplete 2 0) (onLine 2 fun l => { l with rx := .receiving })
    (t.line 2).rx = .breakHold ∧ (t.line 2).counters.breaks = 1 := by decide +kernel

theorem test_break_hold_ends :
    ((after (.breakHoldEnd 2) (onLine 2 fun l => { l with rx := .breakHold, highWait := some 1 })).line 2).rx =
      .hunt := by decide +kernel

theorem test_settle_ends :
    ((after (.settleEnd 2) (onLine 2 fun l => { l with rx := .settle, highWait := some 10 })).line 2).rx = .hunt := by
  decide +kernel

theorem test_low_in_settle_waits_again :
    ((after (.lineLowInWait 2) (onLine 2 fun l => { l with rx := .settle, highWait := some 3 })).line 2).highWait =
      some 10 := by decide +kernel

theorem test_gap_closes_the_reply :
    let t := after (.gapExpiry 1)
      ((onLine 1 fun l =>
          { l with
            txMode := .on, wait := some { wait0 with begun := true, timer := none }
            respMark := some { station := 0x05, channel := 0x02 }, gapTimer := some 3
            openRec :=
              some
                { record0 with kind := .response, length := 4, station := some 0x05, channel := some 0x02 } }).modChan
        2 fun c => { c with outstanding := true })
    (t.line 1).upQueue.length = 1 ∧ (t.line 1).openRec = none ∧ (t.line 1).wait = none ∧
      (t.chan 2).outcome = .answered ∧ (t.chan 2).outstanding = false := by decide +kernel

theorem test_reply_timeout_queues_no_reply :
    let t := after (.replyTimeout 1) (waiting 1 State.reset)
    (t.line 1).upQueue.map UpRecord.header = [[0x23, 0x00, 0x80, 0x05, 0x02]] ∧ (t.line 1).wait = none ∧
      (t.line 1).counters.noReplies = 1 ∧ t.buffer.freeBlocks.length = 512 ∧ t.buffer.freeDescs.length = 191 ∧
      (t.line 1).lastExpired = some { station := 0x05, channel := 0x02 } := by decide +kernel

/-! ### Downstream records and transmitters (sections 7.8, 7.9) -/

theorem test_record_for_a_draining_line_is_discarded :
    let t := [0x41, 0x03, 0x15].foldl State.feedDown
      { ((onLine 5 fun l => { l with txMode := .draining, sending := true, downQueue := [down0 5 true] }).setStation 0x15
          (stationOn 5 0x01)) with
        parser := { State.reset.parser with parse := .between } }
    t.parser.discards.lineOff = 1 ∧ t.parser.parse = .skip (some 3) ∧
      t.mgmt.events.count .downDiscard = some 1 := by decide +kernel

theorem test_record_end_begins_the_wait :
    let t := after (.transmitRecordEnd 6)
      (onLine 6 fun l => { l with txMode := .draining, sending := true, downQueue := [down0 6 true] })
    (t.line 6).wait.map (fun w => w.timer) = some (some 200) ∧ (t.line 6).sending = false ∧
      (t.line 6).transmitter = .draining ∧ (t.line 6).counters.recordsSent = 1 := by decide +kernel

theorem test_rest_end_begins_the_next_record :
    ((after (.transmitRestEnd 6) (onLine 6 fun l => { l with txMode := .on, resting := true, downQueue := [down0 6 true] })).line
        6).sending = true := by decide +kernel

/-! ### Polling, resets and wakes (sections 8.9, 10) -/

theorem test_grant_queues_a_poll_record :
    let t := after .pollGrant (pollReady (stationOn 3 0x00))
    (t.line 3).downQueue.map (fun r => (r.station, r.channel, r.reply)) = [(20, 0x01, true)] ∧
      (t.chan 1).outstanding = true ∧ (t.chan 1).current = 1 ∧ (t.chan 1).armed = false ∧ t.poll.pointer = 1 ∧
      t.mgmt.events.count (.pollTerminal 1) = some 1 := by decide +kernel

theorem test_script_fault_masks :
    let t := after .pollGrant (pollReady Station.reset)
    (t.line 3).downQueue = [] ∧ (t.chan 1).armed = false ∧ (t.chan 1).current = 0 ∧ (t.chan 1).count = 1 ∧
      t.mgmt.events.count (.pollFault 1) = some 1 := by decide +kernel

theorem test_timer_trigger_is_missed_while_pending :
    let t := after (.pollIntervalExpiry 1)
      (State.reset.modChan 1 fun c => { c with armed := true, count := 1, counter := some 0, pending := true })
    (t.chan 1).missed = 1 ∧ (t.chan 1).counter = some 10 := by decide +kernel

theorem test_supervision_hold :
    let t := after .supervisionExpiry
      { (State.reset.modChan 1 fun c => { c with armed := true, count := 1 }) with
        sup := { interval := 10, action := .hold, timer := some 0 } }
    (t.chan 1).armed = false ∧ t.sup.timer = none ∧ t.mgmt.events.count .supervision = some 1 := by decide +kernel

theorem test_supervision_waits_for_its_time :
    let s := { State.reset with sup := { interval := 10, action := .reset, timer := some 1 } }
    (after .supervisionExpiry s).sup = s.sup := by decide +kernel

theorem test_time_runs_out :
    let s := { State.reset with sup := { interval := 10, action := .hold, timer := some 1 } }
    (match step s with | .next t => t.sup.timer | .fault _ | .refused _ => none) = some 0 := by decide +kernel

theorem test_power_on_reset_holds : (after .powerOnReset State.reset).held = .power := by decide +kernel

theorem test_pin_reset_and_its_end :
    let t := after .resetEnd (after .pinReset State.reset)
    t.held = .no ∧ t.mgmt.events.cause = .pin ∧ t.quiet.lastCause = .pin := by decide +kernel

theorem test_trunk_wake :
    let t := after .trunkWake quietPart
    t.quiet.flag = false ∧ t.framer.rx = .search ∧ (t.line 1).rx = .settle ∧ (t.line 1).highWait = some 10 ∧
      t.mgmt.events.count .wake = some 1 ∧ t.quiet.lastWake = some .trunk := by decide +kernel

theorem test_line_wake : (after (.lineWake 1) quietPart).quiet.lastWake = some (.line 1) := by decide +kernel

/-! ### Management commands (sections 3.8, 9.6, 11.5) -/

theorem test_read_slot_response :
    answer
        (after .readSlot
          (due (.plain 0x31 0x5A [0x01, 0x04])
            { State.reset with
              slots :=
                { State.reset.slots with
                  banks := State.reset.slots.banks.set 1
                    ((State.reset.slots.banks[(1 : Fin 2)]).set 4 { owner := some 2, frames := 0x0101 }) } })) =
      some [0x01, 0x05, 0x5A, 0x31, 0x00, 0x02, 0x01, 0x01, 0x00, 0x00] := by decide +kernel

theorem test_read_slot_28_is_range :
    answer (after .readSlot (due (.plain 0x31 0x5A [0x01, 28]) State.reset)) = some [0x01, 0x00, 0x5A, 0x31, 0x03] := by
  decide +kernel

theorem test_write_station_conflict :
    answer
        (after .writeStation
          (due (.plain 0x20 0x01 [12, 0x01, 2, 0x21, 0x01, 0x01, 0x00]) (State.reset.setStation 10 (stationOn 2 0x21)))) =
      some [0x01, 0x01, 0x01, 0x20, 0x05, 10] := by decide +kernel

theorem test_invalidate_selected_station_is_busy :
    answer
        (after .invalidateStation
          (due (.plain 0x21 0x01 [11])
            ((onLine 2 fun l => { l with selection := some 11 }).setStation 11 (stationOn 2 0x22)))) =
      some [0x01, 0x00, 0x01, 0x21, 0x04] := by decide +kernel

theorem test_read_station_selected_by_line_2 :
    answer
        (after .readStation
          (due (.plain 0x22 0x01 [11])
            ((onLine 2 fun l => { l with selection := some 11 }).setStation 11 (stationOn 2 0x22)))) =
      some [0x01, 0x08, 0x01, 0x22, 0x00, 0x01, 0x02, 0x22, 0x01, 0x01, 0x00, 0x00, 0x02] := by decide +kernel

theorem test_read_events_gives_three_conditions :
    let s : State :=
      { State.reset with
        mgmt := { State.reset.mgmt with events := { State.reset.mgmt.events with counts := Vector.replicate 30 none } } }
    let t := after .readEvents
      (due (.plain 0x02 0x01 []) (((((s.raise .trunk).raise (.lineLoss 2)).raise (.lineLoss 2)).raise (.lineLoss 2)).raise
        (.pollTerminal 3)))
    (answer t).map List.length = some 11 ∧ t.mgmt.events.attention = false := by decide +kernel

theorem test_read_counters_clears :
    let t := after .readCounters
      (due (.plain 0x03 0x01 [0x09, 0x01])
        { State.reset with parser := { State.reset.parser with discards := { DiscardCounters.zero with lineOff := 3 } } })
    t.parser.discards = .zero ∧
      answer t =
        some [0x01, 16, 0x01, 0x03, 0x00, 0, 0, 0, 0, 0, 0, 0, 0, 0, 3, 0, 0, 0, 0, 0, 0] := by decide +kernel

theorem test_read_buffer_after_reset :
    (answer (after .readBuffer (due (.plain 0x60 0x01 []) State.reset))).map (fun o => o.take 9) =
      some [0x01, 36, 0x01, 0x60, 0x00, 0x02, 0x00, 192, 0x07] := by decide +kernel

theorem test_read_line_after_reset :
    answer (after .readLine (due (.plain 0x11 0x01 [0x00]) State.reset)) =
      some [0x01, 17, 0x01, 0x11, 0x00, 0x03, 0x08, 0x00, 0x01, 0x00, 3, 64, 32, 20, 0x00, 0x00, 0, 0, 0, 0, 0, 0] := by
  decide +kernel

theorem test_set_line :
    (((after .setLine
            (due (.plain 0x10 0x01 [0x02, 0x03, 0x07, 0x01, 0x01, 0x00, 2, 16, 1, 1, 0x01, 0x01]) State.reset)).line
          2).params) =
      { rate := .r9600, dataBits := .seven, parity := .even, stopBits := .one, addressMark := false, gap := 2
        maxLength := 16, quota := 1, replyTimeout := 1, echo := true, wake := true } := by decide +kernel

theorem test_line_control_with_flush :
    let s := due (.plain 0x12 0x01 [0x06, 0x00, 0x02, 0x01])
      ((onLine 6 fun l =>
          { l with
            txMode := .on, sending := true
            downQueue :=
              [down0 6 true, { down0 6 false with origin := .poll, channel := 0x04, desc := 1, chain := [1] },
                { down0 6 false with desc := 2, chain := [2] }] }).modChan
        4 fun c => { c with outstanding := true })
    let t := after .lineControl s
    (t.line 6).transmitter = .draining ∧ (t.line 6).downQueue = [down0 6 true] ∧ (t.chan 4).outcome = .abandoned ∧
      (after .flush s).line 6 = t.line 6 ∧ (after .transmitterOff s).line 6 = t.line 6 ∧
      (after .transmitterOn s).line 6 = s.line 6 := by decide +kernel

theorem test_receiver_on :
    let s := due (.plain 0x12 0x01 [0x06, 0x01, 0x00, 0x00]) State.reset
    ((after .receiverOn s).line 6).rx = .hunt ∧ (after .receiverOff s).line 6 = s.line 6 := by decide +kernel

theorem test_receiver_off_truncates :
    let t := after .receiverOff
      (due (.plain 0x12 0x01 [0x06, 0x02, 0x00, 0x00])
        (onLine 6 fun l => { l with rx := .hunt, openRec := some record0, gapTimer := some 3 }))
    (t.line 6).upQueue.map (fun r => r.flags.truncated) = [true] ∧
      t.mgmt.events.count (.lineLoss 6) = some 1 := by decide +kernel

theorem test_transmitter_on :
    ((after .transmitterOn (due (.plain 0x12 0x01 [0x06, 0x00, 0x01, 0x00]) State.reset)).line 6).transmitter = .idle := by
  decide +kernel

theorem test_write_slot_goes_to_the_shadow_bank :
    let t := after .writeSlot (due (.plain 0x30 0x01 [27, 0x03, 0xFF, 0xFF]) State.reset)
    (t.slots.banks[(1 : Fin 2)])[(27 : SlotNo)] = { owner := some 3, frames := 0xFFFF } ∧
      (t.slots.banks[(0 : Fin 2)])[(27 : SlotNo)] = .reset := by decide +kernel

theorem test_swap_banks : (after .swapBanks (due (.plain 0x32 0x01 []) State.reset)).slots.swapPending = true := by
  decide +kernel

theorem test_write_script :
    (after .writeScript (due (.plain 0x40 0x01 [10, 60, 0x01, 2, 0x41, 0x42]) State.reset)).poll.script[(10 : EntryNo)] =
      { station := 60, reply := true, payload := [0x41, 0x42] } := by decide +kernel

theorem test_read_script_after_reset :
    answer (after .readScript (due (.plain 0x41 0x01 [10]) State.reset)) =
      some [0x01, 4, 0x01, 0x41, 0x00, 0, 0, 1, 0] := by decide +kernel

theorem test_set_channel :
    let t := after .setChannel (due (.plain 0x50 0x01 [1, 4, 10, 2, 0x00, 0x01, 0x01, 0x00, 0x00, 0x64]) State.reset)
    (t.chan 1).settings =
        { target := 4, baseIndex := 10, baseCount := 2, step := .advance, mode := .run, reload := true
          trigger := .timer, interval := 100 } ∧
      (t.chan 1).current = 10 ∧ (t.chan 1).count = 2 := by decide +kernel

theorem test_read_channel_after_reset :
    (answer (after .readChannel (due (.plain 0x51 0x01 [7]) State.reset))).map (fun o => o.drop 5) =
      some [0, 0, 0, 0, 0, 0, 1, 0, 0, 0, 0, 0, 0, 1, 0, 0, 0, 0, 0, 0, 0] := by decide +kernel

theorem test_arm : let t := after .arm (due (.plain 0x52 0x01 [1, 0x00]) State.reset)
    (t.chan 1).armed = true ∧ (t.chan 1).count = 1 ∧ (t.chan 1).counter = some 10 := by decide +kernel

theorem test_mask :
    ((after .mask (due (.plain 0x52 0x01 [1, 0x01]) (State.reset.modChan 1 fun c => { c with armed := true }))).chan
        1).armed = false := by decide +kernel

theorem test_poll_now_on_a_count_of_0_is_busy :
    answer (after .pollNow (due (.plain 0x52 0x01 [1, 0x02]) State.reset)) = some [0x01, 0x00, 0x01, 0x52, 0x04] := by
  decide +kernel

theorem test_set_arbitration :
    let t := after .setArbitration (due (.plain 0x53 0x01 [0x01]) State.reset)
    t.poll.mode = .rotating ∧ answer t = some [0x01, 2, 0x01, 0x53, 0x00, 0x01, 7] := by decide +kernel

theorem test_set_supervision :
    (after .setSupervision (due (.plain 0x05 0x01 [10, 0x01]) State.reset)).sup =
      { interval := 10, action := .reset, timer := some 10000 } := by decide +kernel

theorem test_enter_quiet :
    let t := after .enterQuiet (due (.plain 0x06 0x01 [0x01]) (running State.reset))
    t.mgmt.exec = .awaitingQuiet ∧ (t.line 7).quietHold = true ∧ t.quiet.wakeOnTrunk = true := by decide +kernel

theorem test_device_reset_awaits_its_response :
    let t := after .resetDevice (due (.plain 0x04 0x40 [0x01]) (running State.reset))
    t.mgmt.exec = .awaitingReset ∧ answer t = some [0x01, 0x00, 0x40, 0x04, 0x00] := by decide +kernel

theorem test_lines_reset_holds_the_line_streams :
    let t := after .resetLines (due (.plain 0x04 0x40 [0x02]) (onLine 2 fun l => { l with upQueue := [record0] }))
    (t.line 2).upQueue = [] ∧ (t.line 2).pos = .restartPending ∧ t.serializer.lineHold = .inForce := by decide +kernel

theorem test_counters_reset :
    let t := after .resetCounters
      (due (.plain 0x04 0x40 [0x03]) (onFramer fun f => { f with slips := 0xFFFF }))
    t.framer.slips = 0 := by decide +kernel

theorem test_unknown_code : answer (after .unknownCommand (due (.plain 0x07 0x01 []) State.reset)) =
    some [0x01, 0x00, 0x01, 0x07, 0x01] := by decide +kernel

theorem test_overlength_record :
    answer
        (after .overlengthCommand (due { code := 0x40, length := 41, tag := 0x01, params := [], overlength := true } State.reset)) =
      some [0x01, 0x00, 0x01, 0x40, 0x02] := by decide +kernel

theorem test_read_ident_answers_16_octets :
    (answer (after .readIdent (due (.plain 0x01 0x01 []) State.reset))).map List.length = some 16 := by decide +kernel

/-! ### A state and operands for the hypotheses of every statement -/

theorem due_is_due (c : Command) (s : State) (h : s.mgmt.responses = []) (r : s.mgmt.exec = .ready) :
    (due c s).Due c [] :=
  ⟨rfl, by simp [due, h, Config.responseQueueSize], r⟩

theorem due_after_reset (c : Command) : (due c State.reset).Due c [] := due_is_due c _ rfl rfl

theorem free_of_reset {s : State} (h : s.buffer = .reset) :
    s.buffer.freeDescs = 0 :: (List.range 192).drop 1 ∧ s.buffer.freeBlocks = 0 :: (List.range 512).drop 1 ∧
      32 < s.buffer.freeBlocks.length ∧ 16 < s.buffer.freeDescs.length := by
  rw [h]; decide +kernel

theorem witness_step_runs_the_front_command :
    ({ State.reset with pending := [.readIdent, .trunkWake] } : State).pending = .readIdent :: [.trunkWake] := rfl

theorem witness_idle_step :
    (State.reset.pending = [] ∧ State.reset.held = .no ∧ State.reset.quiet.flag = false ∧
        (∀ n : LineNo, (State.reset.line n).wait = none) ∧ (∀ c : ChannelNo, (State.reset.chan c).armed = false) ∧
        State.reset.sup.timer ≠ some 0) ∧
      (quietPart.pending = [] ∧ quietPart.quiet.flag = true) ∧
      (let s := waiting 1 (waiting 2 State.reset)
       s.pending = [] ∧ s.held = .no ∧ s.quiet.flag = false ∧ (s.line 1).wait = some wait0 ∧ wait0.begun = false ∧
        wait0.timer = some 0 ∧ ∀ m : LineNo, m < 1 → (s.line m).wait = none) ∧
      (let s := State.reset.modChan 3 fun c => { c with armed := true, counter := some 0 }
       s.pending = [] ∧ s.held = .no ∧ s.quiet.flag = false ∧ (∀ n : LineNo, (s.line n).wait = none) ∧
        (s.chan 3).armed = true ∧ (s.chan 3).settings.trigger = .timer ∧ (s.chan 3).counter = some 0 ∧
        ∀ d : ChannelNo, d < 3 → (s.chan d).armed = false) ∧
      (let s := { State.reset with sup := { interval := 10, action := .hold, timer := some 0 } }
       s.pending = [] ∧ s.held = .no ∧ s.quiet.flag = false ∧ (∀ n : LineNo, (s.line n).wait = none) ∧
        (∀ c : ChannelNo, (s.chan c).armed = false) ∧ s.sup.timer = some 0) := by decide +kernel

theorem witness_frame_start :
    (State.reset.held = .no ∧ State.reset.framer.rx ≠ .quiet ∧ State.reset.framer.txOctets = []) ∧
      (let s := inFrame 30 { (onFramer fun f => { f with rx := .operational, farAlarm := false }) with
          slots := { State.reset.slots with swapPending := true } }
       s.held = .no ∧ s.framer.rx ≠ .quiet ∧ s.framer.txOctets.length = 31 ∧ s.framer.txNumber = 0 ∧
        s.framer.running = false ∧ s.framer.transmitEnable = true ∧ s.slots.swapPending = true) ∧
      (let s := inFrame 30 { (onLine 2 fun l => { l with pos := .restartPending }) with
          serializer := { State.reset.serializer with lineHold := .ending } }
       s.held = .no ∧ s.framer.rx ≠ .quiet ∧ s.framer.txOctets.length = 31 ∧ s.framer.transmitEnable = false ∧
        s.serializer.lineHold = .ending) := by decide +kernel

theorem witness_check_octet :
    let s := inFrame 30 State.reset
    s.held = .no ∧ s.framer.rx ≠ .quiet ∧ s.framer.txOctets.length = 31 ∧ s.framer.txOctets.head? = some 0xD3 := by
  decide +kernel

theorem witness_data_slot_fill :
    (inFrame 1 State.reset).framer.txOctets.length = (0 : SlotNo).val + 2 ∧
      (inFrame 28 State.reset).framer.txOctets.length = (27 : SlotNo).val + 2 ∧
      (inFrame 1 State.reset).framer.running = false ∧
      ((State.reset.slots.banks[State.reset.slots.active])[(0 : SlotNo)]).owner = none ∧
      ((State.reset.slots.banks[State.reset.slots.active])[(0 : SlotNo)]).frames.getLsbD 0 = false := by decide +kernel

theorem witness_data_slot_owned (p : StreamPos) (q : List UpRecord) :
    let s := ownedSlot 27 (inFrame 28 (running (onLine 2 fun l => { l with pos := p, upQueue := q })))
    let entry := (s.slots.banks[s.slots.active])[(27 : SlotNo)]
    s.framer.txOctets.length = (27 : SlotNo).val + 2 ∧ s.framer.running = true ∧ entry.owner = some 2 ∧
      entry.frames.getLsbD s.framer.sentNumber.toNat = true ∧ (s.line 2).pos = p ∧ (s.line 2).upQueue = q := by
  intro s entry
  refine ⟨by rfl, by rfl, by rfl, ?_, by rfl, by rfl⟩
  show (0xFFFF : Half).getLsbD 0 = true
  decide

theorem witness_data_slot_offsets :
    1 + 1 < (record0.header ++ State.reset.buffer.payload record0.chain record0.length).length ∧
      2 + 1 = (record0.header ++ State.reset.buffer.payload record0.chain record0.length).length := by decide +kernel

theorem witness_management_slot :
    (inFrame 29 State.reset).framer.txOctets.length = 30 ∧ (inFrame 29 State.reset).framer.running = false ∧
      State.reset.mgmt.responses = [] ∧
      (let s := inFrame 29 (running (responding .nothing (.sending 4) State.reset))
       s.framer.txOctets.length = 30 ∧ s.framer.running = true ∧ s.serializer.mgmtPos = .sending 4 ∧
        ∃ r, s.mgmt.responses = [r] ∧ 4 + 1 = r.octets.length ∧ 1 + 1 < r.octets.length ∧ r.governs = .nothing) ∧
      (responding .nothing .idle State.reset).serializer.mgmtPos = .idle :=
  ⟨by decide, rfl, rfl, ⟨by decide, rfl, rfl, _, rfl, by decide, by decide, rfl⟩, rfl⟩

theorem witness_response_end (g : Governs) :
    let s := inFrame 29 (running (responding g (.sending 4) State.reset))
    s.framer.txOctets.length = 30 ∧ s.framer.running = true ∧ s.serializer.mgmtPos = .sending 4 ∧
      ∃ r, s.mgmt.responses = [r] ∧ 4 + 1 = r.octets.length ∧ r.governs = g :=
  ⟨by rfl, rfl, rfl, _, rfl, by rfl, rfl⟩

theorem witness_quiet_entry :
    (let s := inFrame 30 { (onLine 1 fun l => { l with rx := .hunt, starved := true }) with
        framer := { State.reset.framer with rx := .quiet } }
     s.framer.rx = .quiet ∧ s.quiet.flag = false ∧ s.framer.txOctets.length = 31 ∧ (s.line 1).starved = true) ∧
      (let s := inFrame 30 { (onLine 1 fun l => { l with rx := .hunt, openRec := some record0, gapTimer := some 3 }) with
          framer := { State.reset.framer with rx := .quiet } }
       s.framer.rx = .quiet ∧ s.quiet.flag = false ∧ s.framer.txOctets.length = 31 ∧ (s.line 1).stage = [] ∧
        (s.line 1).openRec = some record0 ∧ ∀ n : LineNo, (s.line n).wait = none ∧ (s.line n).respMark = none) := by
  decide +kernel

/-- A frame that is received from the aligned position on ends there. -/
theorem completes_at_once {f : Framer} {octets : List Octet} (hr : f.rxBits = []) (hp : f.bitPos = f.alignPos)
    (hl : octets.length = 32) : f.Completes (trunkBits octets) octets := by
  have h : (trunkBits octets).length = 256 := by rw [trunkBits_length, hl]
  refine ⟨hl, fun e => ?_, by rw [hr]; rfl, ?_⟩
  · rw [e] at h
    cases h
  · rw [h, hp]
    exact Fin.add_zero _

theorem witness_alignment :
    (∃ t, exec (.downstreamFrameJudged [true] []) State.reset = .next t) ∧ State.reset.held = .no ∧
      State.reset.framer.rx = .search ∧ State.reset.framer.recent = [] ∧ State.reset.framer.candidates = [] ∧
      (let c := List.replicate 255 true
       let s := onFramer fun f => { f with recent := List.replicate 8 true, candidates := [c, octetBits 0xD3] }
       let last := (s.framer.recent ++ [true]).drop (s.framer.recent.length - 7)
       s.held = .no ∧ s.framer.rx = .search ∧ last ≠ octetBits 0xD3 ∧
        s.framer.candidates.map (fun c => c ++ [true]) = [List.replicate 256 true, octetBits 0xD3 ++ [true]]) ∧
      (let s := onFramer fun f => { f with rx := .confirm }
       s.framer.bitPos + Fin.ofNat 256 1 ≠ s.framer.alignPos) := by
  refine ⟨⟨_, rfl⟩, ?_⟩
  decide +kernel

theorem witness_frames :
    goodFrame (frame 0x09 [] 0x00) = true ∧ goodFrame badFrame = false ∧ badFrame.length = 32 ∧
      headerNumber (frameOctet (frame 0x09 [] 0x00) 1) ≠ 0 ∧
      goodFrame (frame 0x00 [] 0x00) = true ∧ headerNumber (frameOctet (frame 0x00 [] 0x00) 1) = 0 ∧
      headerRestart (frameOctet (frame 0x00 [] 0x00) 1) = false ∧
      (let o := frame (headerOctet false false 0 true 0) [0x41, 0x01] 0x02
       goodFrame o = true ∧ headerNumber (frameOctet o 1) = 0 ∧ headerRestart (frameOctet o 1) = true) := by
  decide +kernel

theorem witness_alignment_states (a : Align) (octets : List Octet) (hl : octets.length = 32) :
    let s := onFramer fun f => { f with rx := a, goodCount := 2, badCount := 3 }
    s.held = .no ∧ s.framer.rx = a ∧ s.framer.Completes (trunkBits octets) octets ∧
      3 ≤ s.afterFrame.framer.goodCount + 1 ∧ 4 ≤ s.afterFrame.framer.badCount + 1 :=
  ⟨rfl, rfl, completes_at_once rfl rfl hl, Nat.le_refl 3, Nat.le_refl 4⟩

theorem witness_bad_frame_and_slip :
    let s := running State.reset
    s.held = .no ∧ s.framer.rx = .operational ∧ s.framer.badCount < 3 ∧
      s.framer.Completes (trunkBits badFrame) badFrame ∧ goodFrame badFrame = false ∧
      s.framer.Completes (trunkBits (frame 0x07 [] 0x00)) (frame 0x07 [] 0x00) ∧
      goodFrame (frame 0x07 [] 0x00) = true ∧
      headerNumber (frameOctet (frame 0x07 [] 0x00) 1) ≠ s.framer.expected ∧ s.framer.running = true ∧
      3 ≤ (onFramer fun f => { f with rx := .operational, badCount := 3 }).framer.badCount := by
  refine ⟨rfl, rfl, by decide, completes_at_once rfl rfl (by decide), by decide +kernel,
    completes_at_once rfl rfl (by decide), by decide +kernel, by decide +kernel, rfl, by decide⟩

theorem witness_expected_frame :
    let s := running State.reset
    s.held = .no ∧ s.framer.rx = .operational ∧
      s.framer.Completes (trunkBits (frame 0x00 [] 0x00)) (frame 0x00 [] 0x00) ∧
      goodFrame (frame 0x00 [] 0x00) = true ∧ headerNumber (frameOctet (frame 0x00 [] 0x00) 1) = s.framer.expected ∧
      headerRestart (frameOctet (frame 0x00 [] 0x00) 1) = false ∧
      (let o := frame (headerOctet false false 0 true 0) [0x41, 0x01] 0x02
       s.framer.Completes (trunkBits o) o ∧ goodFrame o = true ∧
        headerNumber (frameOctet o 1) = s.framer.expected ∧ headerRestart (frameOctet o 1) = true) := by
  refine ⟨rfl, rfl, completes_at_once rfl rfl (by decide), by decide +kernel, by decide +kernel, by decide +kernel,
    completes_at_once rfl rfl (by decide), by decide +kernel⟩

theorem witness_streams_stop :
    let s := { State.reset with framer := { State.reset.framer with running := true } }
    s.framer.running = true ∧ s.framer.transmitEnable = false ∧
      State.reset.framer.running = false ∧ (running State.reset).framer.transmitEnable = true := by decide +kernel

theorem witness_parser_states (p : DownParse) (q : CmdParse) :
    let s := (State.reset.setParse p).setCmdParse q
    s.parser.parse = p ∧ s.mgmt.parse = q := ⟨rfl, rfl⟩

theorem witness_skip :
    (State.reset.setParse .between).parser.parse = .between ∧ (0x44 : Octet) ∉ ([0x00, 0x41, 0x42, 0x43] : List Octet) ∧
      (List.replicate 256 (0x00 : Octet)).length = (0xFF : Octet).toNat + 1 := by decide +kernel

/-- A part whose line 3 is on and waits for a reply, with station 20 on it. -/
def downReady : State :=
  ((waiting 3 State.reset).setStation 20 (stationOn 3 0x07)).setParse (.header .send (some 2))

theorem witness_down_checks :
    downReady.parser.parse = .header .send (some 2) ∧ (downReady.station 20).valid = true ∧
      (downReady.station 20).down = true ∧ (downReady.line 3).txMode = .on ∧
      (downReady.line 3).downQueue.length < 16 ∧ (downReady.station 21).valid = false ∧
      downReady.buffer.freeDescs ≠ [] ∧ (downReady.setParse (.header .sendBreak (some 0))).parser.parse =
        .header .sendBreak (some 0) ∧
      ({ downReady with buffer := { downReady.buffer with freeDescs := [] } } : State).buffer.freeDescs = [] ∧
      ((downReady.setStation 21 { stationOn 3 0x08 with down := false }).station 21).down = false ∧
      ((downReady.setStation 21 (stationOn 4 0x08)).line 4).txMode ≠ .on ∧
      16 ≤ ((downReady.modLine 3 fun l => { l with downQueue := List.replicate 16 (down0 3 true) }).line
        3).downQueue.length := by decide +kernel

theorem stationsUnique_of_none {s : State} (h : ∀ k : Octet, (s.station k).valid = false) : s.StationsUnique := by
  intro j k hj; simp [h j] at hj

theorem conserved_of_free {s : State} (f : s.buffer.freeBlocks = List.range Config.blocks)
    (d : s.buffer.freeDescs = List.range Config.descriptors) (h : s.heldBlocks = []) (g : s.heldDescs = []) :
    s.StorageConserved := by
  unfold State.StorageConserved; rw [f, d, h, g]; simp

theorem witness_accepted_payload :
    let s := downReady.setParse .between
    s.parser.parse = .between ∧ s.CellsCanonical ∧ s.StorageConserved ∧
      (0xFF : Octet).toNat = (List.replicate 255 (0x5A : Octet)).length ∧ List.replicate 255 (0x5A : Octet) ≠ [] ∧
      (List.replicate 255 (0x5A : Octet)).length ≤ 16 * s.buffer.freeBlocks.length ∧ s.buffer.freeDescs ≠ [] ∧
      (s.station 20).valid = true ∧ (s.station 20).down = true ∧ (s.line (s.station 20).line).txMode = .on ∧
      (s.line (s.station 20).line).downQueue.length < 16 ∧ (s.line (s.station 20).line).wait.isSome = true := by
  refine ⟨rfl, rfl, conserved_of_free ?_ ?_ ?_ ?_, ?_⟩ <;> decide +kernel

theorem witness_refused_payload_claim :
    let s := { (State.reset.setParse (.payload { down0 3 true with length := 17 } 16)) with
      buffer := { State.reset.buffer with freeBlocks := [] } }
    s.parser.parse = .payload { down0 3 true with length := 17 } 16 ∧ 16 % 16 = 0 ∧ s.buffer.freeBlocks = [] :=
  ⟨rfl, rfl, rfl⟩

theorem witness_command_octets :
    let s := State.reset.setCmdParse .between
    s.mgmt.parse = .between ∧ (0x01 : Octet) ≠ 0x00 ∧ (0x00 : Octet).toNat = ([] : List Octet).length ∧
      (41 : Octet).toNat = (List.replicate 41 (0x00 : Octet)).length ∧ s.mgmt.cib.length < 4 ∧
      4 ≤ ({ s with mgmt := { s.mgmt with cib := List.replicate 4 (.plain 0x01 0x01 []) } } : State).mgmt.cib.length := by
  decide +kernel

theorem witness_character_format :
    let p : LineParams := { LineParams.default with dataBits := .seven, parity := .even, stopBits := .two }
    (p.addressMark = true → p.dataBits = .eight ∧ p.parity = .none) ∧ (false = true → p.addressMark = true) ∧
      (p.dataBits = .seven → (0x41 : Octet).getLsbD 7 = false) ∧ p.parity ≠ .none ∧
      (∀ k : Fin 11, 1 ≤ k.val → k.val < p.charBits →
        sampleAt (0b1101000001 : BitVec 11) k.val = (charWave p 0x41 false).getD k.val true) ∧
      (∀ k : Fin 11, 1 ≤ k.val → k.val < p.charBits →
        sampleAt (0b1111000001 : BitVec 11) k.val =
          ((charWave p 0x41 false).getD k.val true ^^ decide (k.val = p.dataCount + 1))) ∧
      sampleAt (0 : BitVec 11) (p.charBits - p.stopCount) = false ∧
      (∀ k : Fin 11, 1 ≤ k.val → k.val < p.charBits - p.stopCount → sampleAt (0 : BitVec 11) k.val = false) ∧
      sampleAt (1 : BitVec 11) (p.charBits - p.stopCount) = false ∧ sampleAt (1 : BitVec 11) 1 = true := by
  decide +kernel

theorem witness_character_completes : ((onLine 2 fun l => { l with rx := .receiving }).line 2).rx = .receiving := by
  decide +kernel

theorem witness_data_character (len : Nat) :
    let s := taking (entryOf 0x41 false false) fun l =>
      { l with openRec := some { record0 with length := len }, gapTimer := some 3 }
    (s.line 2).starved = false ∧ (s.line 2).stage = [.char (entryOf 0x41 false false)] ∧
      (entryOf 0x41 false false).brk = false ∧ (s.line 2).params.addressMark = false ∧
      (s.line 2).openRec = some { record0 with length := len } ∧ s.CellsCanonical ∧
      ∃ k free, s.buffer.freeBlocks = k :: free ∧ (s.line 2).upBlocks < (s.line 2).params.quota ∧
        32 < s.buffer.freeBlocks.length := by
  intro s
  obtain ⟨_, b, c, _⟩ := free_of_reset (s := s) rfl
  exact ⟨rfl, rfl, rfl, rfl, rfl, rfl, 0, _, b, (by decide : 1 < 32), c⟩

theorem witness_data_character_of_a_selection :
    let s := taking (entryOf 0x41 false false) fun l =>
      { l with
        params := { l.params with addressMark := true }, selection := some 10
        openRec := some { record0 with length := 63 }, gapTimer := some 3 }
    (s.line 2).starved = false ∧ (s.line 2).stage = [.char (entryOf 0x41 false false)] ∧
      (entryOf 0x41 false false).mark = false ∧ (s.line 2).selection.isSome = true ∧
      (s.line 2).openRec = some { record0 with length := 63 } ∧ s.CellsCanonical ∧ 63 % 16 ≠ 0 ∧
      63 + 1 = (s.line 2).params.maxLength := by
  refine ⟨rfl, rfl, rfl, rfl, rfl, rfl, by decide, rfl⟩

theorem witness_record_opens (m : Option Continuation) (w : Option ReplyWait) :
    let s := onLine 2 fun l => { l with cont := m, wait := w, lastExpired := some { station := 0x05, channel := 0xFF } }
    s.buffer.freeDescs = 0 :: (List.range 192).drop 1 ∧ s.buffer.freeBlocks = 0 :: (List.range 512).drop 1 ∧
      32 < s.buffer.freeBlocks.length ∧ 16 < s.buffer.freeDescs.length ∧
      (s.line 2).upBlocks < (s.line 2).params.quota ∧ (s.line 2).cont = m ∧ (s.line 2).wait = w ∧
      (s.line 2).lastExpired = some { station := 0x05, channel := 0xFF } := by
  intro s
  obtain ⟨a, b, c, d⟩ := free_of_reset (s := s) rfl
  exact ⟨a, b, c, d, (by decide : 0 < 32), rfl, rfl, rfl⟩

/-- A part with just the upstream reserves free. -/
def scarce (s : State) : State :=
  { s with buffer := { s.buffer with freeBlocks := List.range 32, freeDescs := List.range 16 } }

/-- A data character with no open record, items behind it, and a wait that a marker among them keeps unbegun. -/
theorem witness_character_that_opens :
    let e := entryOf 0x41 false false
    let s := onLine 2 fun l => { l with stage := [.char e, .txBoundary], wait := some wait0 }
    (s.line 2).starved = false ∧ (s.line 2).stage = .char e :: [.txBoundary] ∧ e.brk = false ∧
      (s.line 2).params.addressMark = false ∧ (s.line 2).openRec = none ∧ 16 ≤ (s.line 2).params.maxLength ∧
      s.CellsCanonical ∧ (true = true ↔ ∃ i ∈ ([.txBoundary] : List StageItem), ∀ x : StageEntry, i ≠ .char x) ∧
      (s.openRecord 2 none true).map (fun t => (t.line 2).openRec.map fun r => r.kind) = some (some .data) ∧
      (s.openRecord 2 none false).map (fun t => (t.line 2).openRec.map fun r => r.kind) = some (some .response) ∧
      (s.takeItem 2 true (.char e)).isSome = true ∧ (scarce s).takeItem 2 true (.char e) = none := by
  refine ⟨rfl, rfl, rfl, rfl, rfl, by decide, rfl, ?_, ?_, ?_, ?_, ?_⟩
  · exact ⟨fun _ => ⟨.txBoundary, by simp, fun x h => (by cases h)⟩, fun _ => rfl⟩
  all_goals decide +kernel


theorem witness_claims :
    let s := scarce (taking (entryOf 0x41 false false) fun l => l)
    (State.reset.openRecord 2 none false).isSome = true ∧ (State.reset.growRecord 2 record0).isSome = true ∧
      s.buffer.freeBlocks.length ≤ 32 ∧ s.buffer.freeDescs.length ≤ 16 ∧
      (let t := onLine 2 fun l => { l with params := { l.params with quota := 1 }, upQueue := [record0] }
       (t.line 2).params.quota ≤ (t.line 2).upBlocks) := by
  intro s
  refine ⟨?_, ?_, ?_, ?_, ?_⟩ <;> decide +kernel

theorem witness_refused_claims :
    (let s := scarce (taking (entryOf 0x41 false false) fun l => l)
     (s.line 2).starved = false ∧ (s.line 2).stage = [.char (entryOf 0x41 false false)] ∧
      (s.line 2).params.addressMark = false ∧ (s.line 2).openRec = none ∧ s.openingAllowed 2 = false) ∧
      (let s := scarce (taking (entryOf 0x41 false false) fun l =>
          { l with openRec := some { record0 with length := 16 }, gapTimer := some 3 })
       (s.line 2).starved = false ∧ (s.line 2).openRec = some { record0 with length := 16 } ∧ 16 % 16 = 0 ∧
        (entryOf 0x41 false false).brk = false ∧ s.growthAllowed 2 = false ∧ (s.line 2).respMark = none) ∧
      (let s := scarce (taking (entryOf 0x41 false false) fun l =>
          { l with
            params := { l.params with addressMark := true }, selection := some 0x05, gapTimer := some 3
            openRec := some { record0 with kind := .response, length := 16 }
            respMark := some { station := 0x05, channel := 0x02 } })
       (s.line 2).starved = false ∧ (s.line 2).stage = [.char (entryOf 0x41 false false)] ∧
        (entryOf 0x41 false false).mark = false ∧ (s.line 2).selection.isSome = true ∧
        (s.line 2).openRec = some { record0 with kind := .response, length := 16 } ∧ s.growthAllowed 2 = false ∧
        (s.line 2).respMark = some { station := 0x05, channel := 0x02 }) ∧
      ((onLine 2 fun l => { l with starved := true }).line 2).starved = true := by decide +kernel

theorem witness_turn_away (o : Option UpRecord) (k : Option Continuation) (m : Option WaitName) :
    let s := onLine 2 fun l => { l with openRec := o, cont := k, respMark := m }
    (s.line 2).openRec = o ∧ (s.line 2).cont = k ∧ (s.line 2).respMark = m := ⟨rfl, rfl, rfl⟩

theorem witness_break (m : Option WaitName) :
    let s := taking (entryOf 0x00 false true) fun l =>
      { l with openRec := some record0, gapTimer := some 3, respMark := m }
    (s.line 2).starved = false ∧ (s.line 2).stage = [.char (entryOf 0x00 false true)] ∧
      (entryOf 0x00 false true).brk = true ∧ (entryOf 0x00 false true).mark = false ∧
      (s.line 2).openRec = some record0 ∧ (s.line 2).respMark = m ∧ (s.line 2).params.addressMark = false ∧
      (let t := taking (entryOf 0x00 false true) fun l => { l with params := { l.params with addressMark := true } }
       (t.line 2).params.addressMark = true ∧ (t.line 2).selection = none) := by
  refine ⟨rfl, rfl, rfl, rfl, rfl, rfl, rfl, rfl, rfl⟩

theorem witness_break_with_no_open_record :
    let s := fun w : Option ReplyWait => taking (entryOf 0x00 false true) fun l => { l with wait := w }
    ((s none).line 2).starved = false ∧ ((s none).line 2).stage = [.char (entryOf 0x00 false true)] ∧
      ((s none).line 2).params.addressMark = false ∧ ((s none).line 2).openRec = none ∧
      ((s none).openRecord 2 none false).map (fun t => ((t.line 2).openRec.isSome, (t.line 2).respMark)) =
        some (true, none) ∧
      ((s (some wait0)).openRecord 2 none false).map
          (fun t => ((t.line 2).openRec.isSome, (t.line 2).respMark)) =
        some (true, some { station := 0x05, channel := 0x02 }) := by decide +kernel

theorem witness_break_under_a_selection :
    let s := taking (entryOf 0x00 false true) fun l =>
      { l with params := { l.params with addressMark := true }, selection := some 0x0A, openRec := some record0 }
    (s.line 2).starved = false ∧ (s.line 2).stage = [.char (entryOf 0x00 false true)] ∧
      (s.line 2).params.addressMark = true ∧ (s.line 2).selection = some 0x0A ∧ (s.line 2).openRec = some record0 ∧
      (s.line 2).respMark = none := by
  refine ⟨rfl, rfl, rfl, rfl, rfl, rfl⟩

theorem witness_markers :
    (let s := (onLine 2 fun l => { l with stage := [.txSelect 0x21] }).setStation 10 (stationOn 2 0x21)
     (s.line 2).starved = false ∧ (s.line 2).stage = [.txSelect 0x21] ∧ (s.station 10).valid = true ∧
      (s.station 10).line = 2 ∧ (s.station 10).localAddr = 0x21 ∧ (s.station 10).capture = true) ∧
      (let s := onLine 2 fun l => { l with stage := [.txBoundary] }
       (s.line 2).starved = false ∧ (s.line 2).stage = [.txBoundary]) := by decide +kernel

/-- An address-mark line 2 that takes an address character next. -/
def addressed (v : Octet) : State := taking (entryOf v true false) fun l => { l with params := { l.params with addressMark := true } }

theorem stationsUnique_of_one (s : State) (k : Octet) (e : Station) (h : ∀ j : Octet, (s.station j).valid = false) :
    (s.setStation k e).StationsUnique := by
  have other : ∀ j : Octet, j ≠ k → ((s.setStation k e).station j).valid = false := fun j hj => by
    rw [State.setStation_station, if_neg fun x => hj x.symm]; exact h j
  intro i j hi hj _ _
  have a : i = k := Classical.byContradiction fun n => by simp [other i n] at hi
  have b : j = k := Classical.byContradiction fun n => by simp [other j n] at hj
  exact a.trans b.symm

theorem stations_after_reset_are_invalid (j : Octet) : (State.reset.station j).valid = false := by
  revert j; decide +kernel

theorem witness_address_character :
    let s := (addressed 0x21).setStation 10 (stationOn 2 0x21)
    (s.line 2).starved = false ∧ (s.line 2).stage = [.char (entryOf 0x21 true false)] ∧
      (entryOf 0x21 true false).mark = true ∧ (s.line 2).params.addressMark = true ∧
      s.StationsUnique ∧ (entryOf 0x21 true false).framing = false ∧ (s.station 10).valid = true ∧
      (s.station 10).line = 2 ∧ (s.station 10).localAddr = 0x21 ∧ (s.station 10).capture = true :=
  ⟨rfl, rfl, rfl, rfl, stationsUnique_of_one _ _ _ stations_after_reset_are_invalid, rfl, rfl, rfl, rfl, rfl⟩

theorem witness_address_character_without_a_station :
    let s := addressed 0x13
    (s.line 2).starved = false ∧ (s.line 2).stage = [.char (entryOf 0x13 true false)] ∧
      (s.line 2).params.addressMark = true ∧ s.StationsUnique ∧ ∀ k : Octet, (s.station k).valid = false :=
  ⟨rfl, rfl, rfl, stationsUnique_of_none stations_after_reset_are_invalid, stations_after_reset_are_invalid⟩

theorem witness_gap_expiry :
    (∀ m : Option WaitName,
      let s := onLine 2 fun l => { l with openRec := some record0, gapTimer := some 3, respMark := m }
      (s.line 2).gapTimer.isSome = true ∧ (s.line 2).openRec = some record0 ∧ (s.line 2).cont = none ∧
        (s.line 2).respMark = m) ∧
      ∀ (k : Continuation) (m : Option WaitName),
        let s := onLine 2 fun l => { l with cont := some k, gapTimer := some 3, respMark := m }
        (s.line 2).gapTimer.isSome = true ∧ (s.line 2).openRec = none ∧ (s.line 2).cont = some k ∧
          (s.line 2).respMark = m :=
  ⟨fun _ => ⟨rfl, rfl, rfl, rfl⟩, fun _ _ => ⟨rfl, rfl, rfl, rfl⟩⟩

theorem witness_release_and_wake_pass :
    State.reset.NoneStarved ∧
      (let s := scarce (onLine 2 fun l => { l with starved := true })
       s.buffer.freeBlocks.length ≤ 32 ∧ s.buffer.freeDescs.length ≤ 16) ∧
      (let s := onLine 2 fun l => { l with starved := true, upQueue := [record0], params := { l.params with quota := 1 } }
       ∀ n : LineNo, (s.line n).starved = true → (s.line n).params.quota ≤ (s.line n).upBlocks) ∧
      (let s := taking (entryOf 0x41 false false) fun l => { l with starved := true }
       (s.line 2).starved = true ∧ (∀ m : LineNo, m ≠ 2 → (s.line m).starved = false) ∧
        32 < s.buffer.freeBlocks.length ∧ 16 < s.buffer.freeDescs.length ∧
        (s.line 2).upBlocks < (s.line 2).params.quota) := by
  unfold State.NoneStarved; decide +kernel

theorem witness_transmitter_begins :
    let s := onLine 6 fun l => { l with txMode := .draining, downQueue := [down0 6 true] }
    (s.line 6).downQueue = [down0 6 true] ∧ (s.line 6).txMode ≠ .off ∧ (s.line 6).sending = false ∧
      (s.line 6).wait = none ∧ (s.line 6).quietHold = false ∧ (s.line 6).resting = false ∧
      (s.line 0).downQueue = [] ∧ (s.line 0).txMode = .off := by decide +kernel

theorem witness_record_end (b : Bool) :
    let s := onLine 6 fun l => { l with txMode := .on, sending := true, downQueue := [down0 6 b] }
    (s.line 6).sending = true ∧ (s.line 6).downQueue = [down0 6 b] ∧ (down0 6 b).reply = b := ⟨rfl, rfl, rfl⟩

theorem witness_reply_timeout :
    let s := waiting 6 State.reset
    (s.line 6).wait = some wait0 ∧ wait0.begun = false ∧ wait0.timer = some 0 ∧
      s.buffer.freeDescs = 0 :: (List.range 192).drop 1 ∧
      ({ s with buffer := { s.buffer with freeDescs := [] } } : State).buffer.freeDescs = [] := by
  intro s
  exact ⟨rfl, rfl, rfl, (free_of_reset (s := s) rfl).1, rfl⟩

theorem witness_set_line_and_read_line :
    LineParams.default.Lawful ∧
      ({ LineParams.default with gap := 64, maxLength := 255, quota := 128, replyTimeout := 255, addressMark := true } : LineParams).Lawful ∧
      (∀ c, (due c State.reset).Due c []) ∧ (State.reset.line 7).rx = .off ∧ (State.reset.line 7).txMode = .off ∧
      (State.reset.line 7).openRec = none ∧ (State.reset.line 7).upQueue = [] ∧
      (State.reset.line 7).params = .default ∧
      ∀ c, (due c (waiting 7 State.reset)).Due c [] ∧ ((due c (waiting 7 State.reset)).line 7).txMode ≠ .off := by
  refine ⟨by unfold LineParams.Lawful; decide, by unfold LineParams.Lawful; decide, due_after_reset, rfl, rfl, rfl, rfl,
    rfl, fun c => ⟨due_is_due c _ rfl rfl, ?_⟩⟩
  show TxMode.on ≠ TxMode.off
  decide

theorem witness_receiver_on_and_off :
    (∀ c, (due c State.reset).Due c []) ∧ (State.reset.line 7).rx = .off ∧
      ∀ (c : Command) (o : Option UpRecord) (k : Option Continuation) (m : Option WaitName),
        let s := due c (onLine 7 fun l => { l with rx := .hunt, openRec := o, cont := k, respMark := m })
        s.Due c [] ∧ (s.line 7).rx ≠ .off ∧ (s.line 7).respMark = m ∧ (s.line 7).openRec = o ∧ (s.line 7).cont = k := by
  refine ⟨due_after_reset, rfl, fun c o k m => ⟨due_is_due c _ rfl rfl, ?_, rfl, rfl, rfl⟩⟩
  show RxState.hunt ≠ RxState.off
  decide

theorem witness_flush (c : Command) :
    let s := due c (onLine 7 fun l => { l with txMode := .on, downQueue := [{ down0 7 false with channel := 0x04 }] })
    s.Due c [] ∧ s.NoneStarved ∧
      (if (s.line 7).sending then (s.line 7).downQueue.drop 1 else (s.line 7).downQueue) ≠ [] ∧
      (if (s.line 0).sending then (s.line 0).downQueue.drop 1 else (s.line 0).downQueue) = [] ∧
      ∃ r ∈ (if (s.line 7).sending then (s.line 7).downQueue.drop 1 else (s.line 7).downQueue),
        r.channel = natOctet (4 : ChannelNo).val := by
  refine ⟨due_is_due c _ rfl rfl, ?_, List.cons_ne_nil _ _, by rfl, { down0 7 false with channel := 0x04 },
    List.mem_singleton.mpr rfl, rfl⟩
  show ∀ n : LineNo, ((onLine 7 fun l =>
    { l with txMode := .on, downQueue := [{ down0 7 false with channel := 0x04 }] }).line n).starved = false
  decide +kernel

theorem witness_line_control :
    (∀ c, (due c State.reset).Due c []) ∧ (2 : Octet).toNat ≤ 2 ∧ (1 : Octet).toNat ≤ 1 ∧ 7 < (8 : Octet).toNat ∧
      2 < (3 : Octet).toNat ∧ 1 < (2 : Octet).toNat :=
  ⟨due_after_reset, by decide, by decide, by decide, by decide, by decide⟩

theorem witness_station_commands :
    (∀ c : Command,
      let s := due c ((onLine 2 fun l => { l with selection := some 11 }).setStation 11 (stationOn 2 0x22))
      s.Due c [] ∧ (s.line 2).selection = some 11 ∧
        ∀ m : LineNo, (s.line m).selection = some 11 → m = 2) ∧
      (∀ c : Command,
        let s := due c (State.reset.setStation 10 (stationOn 2 0x21))
        s.Due c [] ∧ (stationOn 2 0x21).valid = true ∧ s.StationsUnique ∧ (10 : Octet) ≠ 12 ∧
          (s.station 10).valid = true ∧ (s.station 10).line = (stationOn 2 0x21).line ∧
          (s.station 10).localAddr = (stationOn 2 0x21).localAddr ∧
          ∀ n : LineNo, (s.line n).wait = none ∧ (s.line n).selection = none) ∧
      (due (.plain 0x20 0 []) State.reset).Due (.plain 0x20 0 []) [] ∧ Station.reset.valid = false := by
  refine ⟨fun c => ⟨due_is_due c _ rfl rfl, rfl, ?_⟩, fun c => ⟨due_is_due c _ rfl rfl, rfl, ?_, by decide, rfl, rfl, rfl, ?_⟩,
    due_after_reset _, rfl⟩
  · show ∀ m : LineNo, ((onLine 2 fun l => { l with selection := some 11 }).line m).selection = some 11 → m = 2
    decide +kernel
  · exact stationsUnique_of_one State.reset 10 (stationOn 2 0x21) stations_after_reset_are_invalid
  · show ∀ n : LineNo, (State.reset.line n).wait = none ∧ (State.reset.line n).selection = none
    decide +kernel

theorem witness_slot_map_commands :
    (∀ c, (due c State.reset).Due c []) ∧ State.reset.slots.swapPending = false ∧ 27 < (28 : Octet).toNat ∧
      1 < (2 : Octet).toNat ∧ 7 < (8 : Octet).toNat ∧ (8 : Octet) ≠ 0xFF ∧ 7 < (0xFE : Octet).toNat ∧
      ∀ c : Command,
        let s := due c { State.reset with slots := { State.reset.slots with swapPending := true } }
        s.Due c [] ∧ s.slots.swapPending = true :=
  ⟨due_after_reset, rfl, by decide, by decide, by decide, by decide, by decide,
    fun c => ⟨due_is_due c _ rfl rfl, rfl⟩⟩

theorem witness_outcomes : 8 ≤ (0x08 : Octet).toNat ∧ (0x07 : Octet) = natOctet (7 : ChannelNo).val := by decide

theorem witness_arbiter :
    (∀ c : ChannelNo, State.reset.eligible c = false) ∧ State.reset.poll.mode = .fixed ∧
      (let s := pollReady (stationOn 3 0x00)
       { s with poll := { s.poll with mode := .rotating } }.poll.mode = .rotating ∧ s.eligible 1 = true) := by
  decide +kernel

theorem witness_grant :
    let s := pollReady (stationOn 3 0x00)
    s.choice = some 1 ∧ s.buffer.freeDescs = 0 :: (List.range 192).drop 1 ∧
      s.buffer.freeBlocks = 0 :: (List.range 512).drop 1 ∧ (s.chan 1).count - 1 = 0 ∧
      (let st := s.station (s.poll.script[(s.chan 1).current]).station
       st.valid = true ∧ st.down = true ∧ st.line = (s.chan 1).settings.target) := by decide +kernel

theorem witness_script_fault :
    let s := pollReady Station.reset
    s.choice = some 1 ∧ (s.station (s.poll.script[(s.chan 1).current]).station).valid = false := by decide +kernel

theorem witness_set_channel :
    ChannelSettings.reset.Lawful ∧ ({ ChannelSettings.reset with baseCount := 64, interval := 6000 }).Lawful ∧
      (∀ c, (due c State.reset).Due c []) ∧ (State.reset.chan 7).armed = false ∧
      (State.reset.chan 7).outstanding = false ∧ (State.reset.chan 7).pending = false ∧
      ∀ c : Command,
        let s := due c (State.reset.modChan 7 fun ch => { ch with armed := true })
        s.Due c [] ∧ (s.chan 7).armed = true :=
  ⟨by unfold ChannelSettings.Lawful; decide, by unfold ChannelSettings.Lawful; decide, due_after_reset, rfl, rfl, rfl,
    fun c => ⟨due_is_due c _ rfl rfl, rfl⟩⟩

theorem witness_poll_control :
    (∀ c, (due c State.reset).Due c []) ∧ 7 < (8 : Octet).toNat ∧ 2 < (3 : Octet).toNat :=
  ⟨due_after_reset, by decide, by decide⟩

theorem witness_script_store :
    (∀ c, (due c State.reset).Due c []) ∧ 1 ≤ ([0x41] : List Octet).length ∧
      (List.replicate 16 (0x41 : Octet)).length ≤ 16 ∧ 16 < (List.replicate 17 (0x41 : Octet)).length ∧
      (List.replicate 36 (0x41 : Octet)).length ≤ 36 ∧ ([0x41] : List Octet).length ≠ (2 : Octet).toNat :=
  ⟨due_after_reset, by decide, by decide, by decide, by decide, by decide⟩

theorem witness_reset_commands :
    (∀ c, (due c State.reset).Due c []) ∧ State.reset.framer.transmitEnable = false ∧
      (∀ c : Command,
        let s := due c (running State.reset)
        s.Due c [] ∧ s.framer.transmitEnable = true) ∧
      ∀ (c : Command) (p : DownParse) (k : Nat),
        let s := due c
          { (State.reset.setParse p) with serializer := { State.reset.serializer with mgmtPos := .sending k } }
        s.Due c [] ∧ s.parser.parse = p ∧ s.serializer.mgmtPos = .sending k :=
  ⟨due_after_reset, rfl, fun c => ⟨due_is_due c _ rfl rfl, rfl⟩, fun c _ _ => ⟨due_is_due c _ rfl rfl, rfl, rfl⟩⟩

theorem witness_enter_quiet :
    (∀ c, (due c (running State.reset)).Due c []) ∧ (running State.reset).framer.transmitEnable = true ∧
      (∀ n : LineNo, ((running State.reset).line n).wait = none ∧ ((running State.reset).line n).sending = false) ∧
      (∀ k : ChannelNo, ((running State.reset).chan k).outstanding = false) ∧
      State.reset.framer.transmitEnable = false ∧ (1 : Octet).toNat ≤ 1 :=
  ⟨fun c => due_is_due c _ rfl rfl, rfl, by decide +kernel, by decide +kernel, rfl, by decide⟩

theorem witness_unknown_and_miscounted :
    (∀ c, (due c State.reset).Due c []) ∧
      (0x07 : Octet) ∉
        ([0x01, 0x02, 0x03, 0x04, 0x05, 0x06, 0x10, 0x11, 0x12, 0x20, 0x21, 0x22, 0x30, 0x31, 0x32, 0x40, 0x41, 0x50,
            0x51, 0x52, 0x53, 0x60] : List Octet) ∧
      ((Command.plain 0x10 0 (List.replicate 11 0)).params.length ≠ 12) ∧
      (Command.plain 0x40 0 [1, 2, 3]).params.length < 4 :=
  ⟨due_after_reset, by decide, by decide, by decide⟩

theorem witness_values_out_of_range :
    (∀ c, (due c State.reset).Due c []) ∧ 2 ≤ (2 : Octet).toNat ∧ 10 < (11 : Octet).toNat ∧ 1 < (2 : Octet).toNat ∧
      3 < (4 : Octet).toNat ∧ 27 < (28 : Octet).toNat ∧ 63 < (64 : Octet).toNat ∧ 16 < (17 : Octet).toNat ∧
      (let v : List Octet := List.replicate 12 0xFF
       v.length = 12 ∧ ∀ (n : LineNo) (p : LineParams), p.Lawful → v ≠ natOctet n.val :: p.octets) ∧
      (let v : List Octet := List.replicate 7 0x02
       v.length = 7 ∧ ∀ (k : Octet) (e : Station), v ≠ k :: e.octets) ∧
      (let v : List Octet := List.replicate 10 0xFF
       v.length = 10 ∧
        ∀ (k : ChannelNo) (p : ChannelSettings),
          v ≠
            [natOctet k.val, natOctet p.target.val, natOctet p.baseIndex.val, natOctet p.baseCount, p.step.octet,
                p.mode.octet, if p.reload then 0x01 else 0x00, p.trigger.octet] ++
              halfOctets (BitVec.ofNat 16 p.interval)) := by
  refine ⟨due_after_reset, by decide, by decide, by decide, by decide, by decide, by decide, by decide,
    ⟨by decide, fun n p _ h => ?_⟩, ⟨by decide, fun k e h => ?_⟩, ⟨by decide, fun k p h => ?_⟩⟩
  · have h0 := congrArg List.head? h
    simp only [List.head?_replicate, List.head?_cons] at h0
    clear h; revert h0; revert n; decide
  · have h1 := congrArg (fun v : List Octet => v[1]?) h
    cases e with | mk valid line a d c r => cases valid <;> simp [Station.octets, boolOctet] at h1
  · have h0 := congrArg List.head? h
    simp only [List.head?_replicate, List.cons_append, List.head?_cons] at h0
    clear h; revert h0; revert k; decide

theorem witness_resets_of_a_held_part :
    (after .powerOnReset State.reset).held = .power ∧ (after .pinReset State.reset).held = .pin ∧
      State.reset.held ≠ .power ∧ State.reset.held = .no := by decide +kernel

theorem witness_supervision_expiry (a : SupAction) :
    let s := { State.reset with sup := { interval := 10, action := a, timer := some 0 } }
    s.sup.timer = some 0 ∧ s.quiet.flag = false ∧ s.sup.action = a ∧
      ({ s with sup := { s.sup with timer := some 1 } } : State).sup.timer = some (0 + 1) := ⟨rfl, rfl, rfl, rfl⟩

theorem witness_wakes :
    quietPart.quiet.flag = true ∧ quietPart.quiet.wakeOnTrunk = true ∧ (quietPart.line 1).rx = .watch ∧
      (quietPart.line 1).params.wake = true ∧ State.reset.quiet.flag = false := by decide +kernel

theorem witness_another_rows_command :
    (∀ c, (due c State.reset).mgmt.cib = [c]) ∧ (Command.plain 0x01 0x00 []).code ≠ 0x02 ∧
      (Command.plain 0x01 0x00 []).overlength = false ∧
      (Command.plain 0x12 0x00 [0x07, 0x02, 0x00, 0x00]).params[1]? ≠ some 0x01 ∧
      (Command.plain 0x12 0x00 [0x07]).params[3]? ≠ some 0x01 ∧ 1 ≤ (0x03 : Octet).toNat ∧
      (0x03 : Octet).toNat ≤ 3 ∧ (0x03 : Octet) ≠ 0x01 ∧ (0x07 : Octet).toNat ≤ 7 ∧ (0x02 : Octet).toNat ≤ 2 ∧
      (0x02 : Octet) ≠ 0x00 := ⟨fun _ => rfl, by decide⟩

theorem witness_what_cannot_arise :
    (inFrame 29 State.reset).framer.txOctets.length ≠ 31 ∧ State.reset.framer.txOctets.length < 2 ∧
      30 ≤ (inFrame 29 State.reset).framer.txOctets.length ∧ State.reset.framer.rx ≠ .quiet ∧
      (State.reset.line 0).rx ≠ .receiving ∧ (State.reset.line 0).gapTimer = none ∧
      (State.reset.line 0).wait = none ∧ (State.reset.line 0).sending = false ∧ State.reset.mgmt.cib = [] ∧
      State.reset.sup.timer ≠ some 0 := by
  decide +kernel

/-- A part that works on its first frame, with one command waiting. -/
def working : State := { State.reset with pending := [.upstreamFrameStart] }

theorem witness_raising :
    State.reset.mgmt.events.count .trunk = none ∧ State.reset.mgmt.events.count .restarted = some 1 ∧
      Condition.trunk ≠ .restarted := by decide +kernel

/-- Every invariant's hypotheses: a state that obeys the laws and whose step goes on. -/
theorem witness_invariants :
    working.CellsCanonical ∧ working.StorageConserved ∧ working.QueuesBounded ∧ working.QuotasKept ∧
      working.StationsUnique ∧ working.SelectionsHold ∧ working.CountsLawful ∧ working.OnePollPerLine ∧
      working.PollRecordsSound ∧ working.TransmittersSound ∧ working.AssemblersSound ∧ working.StreamsEnabled ∧ working.EventsCounted ∧
      ∃ t, step working = .next t := by
  have lines : ∀ n : LineNo, working.line n = .reset := by intro n; simp [State.line, working, State.reset]
  have chans : ∀ c : ChannelNo, working.chan c = .reset := by
    intro n; simp [State.chan, working, State.reset, Poll.reset]
  refine ⟨rfl, conserved_of_free ?_ ?_ ?_ ?_, ?_, ?_, stationsUnique_of_none stations_after_reset_are_invalid, ?_, ?_,
    ?_, ?_, ?_, ?_, ?_, ?_, _, rfl⟩
  iterate 4 decide +kernel
  · refine ⟨fun n => ?_, by decide +kernel, by decide +kernel⟩
    rw [lines]; decide
  · intro n; rw [lines]; decide
  · intro n k h; rw [lines] at h; cases h
  · intro c; rw [chans]; decide
  · intro c d h; rw [chans] at h; cases h
  · refine ⟨fun n => ?_, fun n c => ?_, fun n m h => ?_, fun r k h => ?_⟩
    · rw [lines]; decide
    · rw [lines, chans]; exact ⟨fun h => (by cases h), fun h => (by cases h.1)⟩
    · rw [lines] at h; cases h
    · cases h
  · intro n; rw [lines]; exact ⟨fun _ => ⟨rfl, rfl, rfl⟩, fun h => (by cases h), fun m h => (by cases h)⟩
  · intro n; rw [lines]; exact ⟨fun _ => rfl, .inl rfl, by decide⟩
  · intro h; cases h
  · intro c; cases c with
    | lineLoss n => revert n; decide +kernel
    | pollTerminal n => revert n; decide +kernel
    | pollFault n => revert n; decide +kernel
    | _ => decide +kernel

end Sys2Proof.Tests
end

section
/-! SUPPORT. The laws of the streams and of the Event Summary, kept by every step (O59): line work, the parsers, the trunk, the commands, and then each row. -/

namespace Sys2Proof.Machine

/-! ### One step -/

/-- What the queue's turning, every row and a passing millisecond keep, a step keeps. -/
theorem step_keeps {P : State → Prop} (turn : ∀ s cs, P s → P { s with pending := cs })
    (row : ∀ i s t, P s → exec i s = .next t → P t) (tick : ∀ s, P s → P s.tick) {s t : State} (hs : P s)
    (h : step s = .next t) : P t := by
  cases hq : s.pending with
  | cons c cs => exact row c _ t (turn s cs hs) (step_front hq ▸ h)
  | nil =>
    rw [step_idle hq] at h
    cases hd : s.dueExpiry with
    | some i => exact row i s t hs (by rw [hd] at h; exact h)
    | none =>
      rw [hd] at h
      cases h
      exact tick s hs

/-! ### What is upheld -/

/-- Of the two laws, each that holds in `s` holds in `t`. -/
structure State.Upholds (s t : State) : Prop where
  streams : s.StreamsEnabled → t.StreamsEnabled
  counts : s.EventsCounted → t.EventsCounted

theorem State.Upholds.refl (s : State) : s.Upholds s := ⟨id, id⟩

theorem State.Upholds.trans {s t u : State} (h : s.Upholds t) (k : t.Upholds u) : s.Upholds u :=
  ⟨k.streams ∘ h.streams, k.counts ∘ h.counts⟩

/-- The last operation first: its result tells the state before it. -/
theorem State.Upholds.after {s t u : State} (k : t.Upholds u) (h : s.Upholds t) : s.Upholds u := h.trans k

/-- The streams' law reads three fields of the framer. -/
theorem State.StreamsEnabled.of_framer {s t : State} (running : t.framer.running = s.framer.running)
    (rx : t.framer.rx = s.framer.rx) (alarm : t.framer.farAlarm = s.framer.farAlarm) (h : s.StreamsEnabled) :
    t.StreamsEnabled := by
  simpa only [State.StreamsEnabled, Framer.transmitEnable, running, rx, alarm] using h

/-- Streams that are STOPPED need no transmit-enable. -/
theorem State.StreamsEnabled.of_stopped {s : State} (h : s.framer.running = false) : s.StreamsEnabled :=
  fun hr => by rw [h] at hr; cases hr

/-- Outside OPERATIONAL the streams are STOPPED (R12, R14). -/
theorem State.StreamsEnabled.stopped {s : State} (h : s.StreamsEnabled) (hx : s.framer.rx ≠ .operational) :
    s.framer.running = false := by
  cases hr : s.framer.running with
  | false => rfl
  | true =>
    have he := h hr
    simp [Framer.transmitEnable, hx] at he

theorem State.EventsCounted.of_events {s t : State} (h : t.mgmt.events = s.mgmt.events) (hs : s.EventsCounted) :
    t.EventsCounted := fun c => by rw [h]; exact hs c

/-- A change that leaves the framer and the Event Summary alone. -/
theorem State.Upholds.same {s t : State} (hf : t.framer = s.framer) (he : t.mgmt.events = s.mgmt.events) :
    s.Upholds t :=
  ⟨.of_framer (by rw [hf]) (by rw [hf]) (by rw [hf]), .of_events he⟩

/-- A change of the framer that leaves the streams, the receive state and the far-end alarm flag alone. -/
theorem State.Upholds.framer (s : State) (f : Framer) (running : f.running = s.framer.running)
    (rx : f.rx = s.framer.rx) (alarm : f.farAlarm = s.framer.farAlarm) : s.Upholds { s with framer := f } :=
  ⟨.of_framer running rx alarm, .of_events rfl⟩

theorem State.Upholds.modLine (s : State) (n : LineNo) (f : Line → Line) : s.Upholds (s.modLine n f) := .same rfl rfl

theorem State.Upholds.modChan (s : State) (c : ChannelNo) (f : Channel → Channel) : s.Upholds (s.modChan c f) :=
  .same rfl rfl

theorem State.Upholds.buffer (s : State) (b : Buffer) : s.Upholds { s with buffer := b } := .same rfl rfl

/-! ### Raising a condition -/

/-- One more occurrence never makes a count 0 (R159). -/
theorem raisedCount_ne_zero {v : Option Octet} (h : v ≠ some 0) : raisedCount v ≠ some 0 := by
  cases v with
  | none => decide
  | some c =>
    revert c
    decide

/-- The count of a condition is at least 1, and it stops at 255 (R159). -/
theorem raisedCount_some (v : Octet) : ∃ w : Octet, raisedCount (some v) = some w ∧ w.toNat = min (v.toNat + 1) 255 := by
  refine ⟨_, rfl, ?_⟩
  revert v
  decide

/-- A 16-bit counter that rises stops at 65535. -/
theorem satInc_toNat (v : Half) : (satInc v).toNat = min (v.toNat + 1) 65535 := by
  unfold satInc
  split <;> bv_omega

theorem Events.raise_counted {e : Events} (c : Condition) (h : ∀ x, e.count x ≠ some 0) (x : Condition) :
    (e.raise c).count x ≠ some 0 := by
  rw [Events.count_raise]
  split
  · exact raisedCount_ne_zero (h c)
  · exact h x

theorem State.Upholds.raise (s : State) (c : Condition) : s.Upholds (s.raise c) :=
  ⟨.of_framer rfl rfl rfl, Events.raise_counted c⟩

/-! ### Line work -/

theorem State.Upholds.pollEnd (s : State) (c : Octet) (o : PollOutcome) : s.Upholds (s.pollEnd c o) :=
  .same (State.Beside.pollEnd s c o).framer (by rw [State.pollEnd_mgmt])

theorem State.Upholds.endResponse (s : State) (n : LineNo) : s.Upholds (s.endResponse n) := by
  unfold State.endResponse
  split
  · exact .refl s
  · exact (State.Upholds.modLine _ _ _).trans (.pollEnd _ _ _)

theorem State.Upholds.closeRecord (s : State) (n : LineNo) (c : CloseCause) : s.Upholds (s.closeRecord n c) := by
  have closed : s.Upholds (if c = .truncated then (s.modLine n (Line.closeOpen c)).raise (.lineLoss n)
      else s.modLine n (Line.closeOpen c)) := by
    split
    · exact (State.Upholds.modLine _ _ _).trans (.raise _ _)
    · exact .modLine _ _ _
  unfold State.closeRecord
  split
  · exact .refl s
  · dsimp only
    split
    · exact closed
    · exact closed.trans (.endResponse _ _)

theorem State.Upholds.clearCont (s : State) (n : LineNo) : s.Upholds (s.clearCont n) := by
  unfold State.clearCont
  split
  · exact .refl s
  · dsimp only
    split
    · exact (State.Upholds.modLine _ _ _).trans (.endResponse _ _)
    · exact .modLine _ _ _

theorem State.Upholds.turnAway (s : State) (n : LineNo) : s.Upholds (s.turnAway n) :=
  (State.Upholds.closeRecord _ _ _).trans (.clearCont _ _)

/-- A claim that is granted leaves the Event Summary alone. -/
theorem State.openRecord_events {s t : State} {n : LineNo} {st : Option Octet} {m : Bool}
    (h : s.openRecord n st m = some t) : t.mgmt.events = s.mgmt.events := by
  unfold State.openRecord at h
  split at h
  · split at h <;> cases h
    rfl
  · cases h

theorem State.growRecord_events {s t : State} {n : LineNo} {r : UpRecord} (h : s.growRecord n r = some t) :
    t.mgmt.events = s.mgmt.events := by
  unfold State.growRecord at h
  split at h
  · split at h <;> cases h
    rfl
  · cases h

theorem State.Upholds.appendChar (s : State) (n : LineNo) (e : StageEntry) : s.Upholds (s.appendChar n e) := by
  unfold State.appendChar
  split
  · exact .refl s
  · dsimp only
    split
    · exact (State.Upholds.closeRecord _ _ _).after (.same rfl rfl)
    · exact .same rfl rfl

/-- Taking the stage upholds the two laws. -/
theorem State.Upholds.kept (s : State) (n : LineNo) : KeptByItems (State.Upholds s) n where
  close _ _ h := h.trans (.closeRecord _ _ _)
  clear _ h := h.trans (.clearCont _ _)
  opens _ _ _ _ _ h hu := h.trans (.same (State.Beside.openRecord hu).framer (State.openRecord_events hu))
  grow _ _ _ _ h hu := h.trans (.same (State.Beside.growRecord hu).framer (State.growRecord_events hu))
  append _ _ h := h.trans (.appendChar _ _ _)
  select _ _ _ h := h.trans (.modLine _ _ _)
  ignored _ h := h.trans (.modLine _ _ _)

theorem State.Upholds.drain (s : State) (n : LineNo) : s.Upholds (s.drain n) :=
  State.drain_keeps (P := State.Upholds s) (fun _ => .refl s) (fun _ => .refl s)
    (fun _ _ _ _ h ht => (State.Upholds.kept s n).takeItem h ht) (fun _ h => h.trans (.modLine _ _ _))
    (fun t _ _ _ h =>
      (h.trans ((State.Upholds.closeRecord t n .truncated).trans (.modLine _ _ _))).trans (.modLine _ _ _))

theorem State.Upholds.tryBegin (s : State) (n : LineNo) : s.Upholds (s.tryBegin n) :=
  State.tryBegin_keeps (fun _ _ _ _ => (State.Upholds.modLine _ _ _).trans (.drain _ _)) (.refl s)

theorem State.Upholds.serve (s : State) (n : LineNo) : s.Upholds (s.serve n) :=
  (State.Upholds.drain _ _).trans (.tryBegin _ _)

theorem State.Upholds.retry (s : State) (n : LineNo) : s.Upholds (s.retry n) :=
  ((State.Upholds.modLine s n _).trans (.buffer _ _)).trans (.serve _ _)

theorem State.Upholds.wakePass (s : State) : s.Upholds s.wakePass :=
  State.wakePass_keeps (P := State.Upholds s) (fun t n h _ _ => h.trans (.retry t n)) (.refl s)

theorem State.Upholds.release (s : State) (chain : List Nat) (desc : Nat) : s.Upholds (s.release chain desc) :=
  (State.Upholds.buffer s _).trans (.wakePass _)

/-- What each of a list's operations upholds, they uphold together. -/
theorem State.Upholds.foldl {α : Type} {f : State → α → State} (hf : ∀ s a, State.Upholds s (f s a)) (as : List α)
    (s : State) : s.Upholds (as.foldl f s) := by
  induction as generalizing s with
  | nil => exact .refl s
  | cons a as ih => exact (hf s a).trans (ih _)

theorem State.Upholds.quietDrain (s : State) (n : LineNo) : s.Upholds (s.quietDrain n) :=
  ((State.Upholds.drain s n).trans (.turnAway _ _)).trans (.modLine _ _ _)

/-! ### The downstream parsers -/

theorem State.Upholds.setParse (s : State) (p : DownParse) : s.Upholds (s.setParse p) := .same rfl rfl

theorem State.Upholds.setCmdParse (s : State) (p : CmdParse) : s.Upholds (s.setCmdParse p) := .same rfl rfl

theorem State.Upholds.discardDown (s : State) (d : Discard) (p : DownParse) : s.Upholds (s.discardDown d p) :=
  (State.Upholds.raise { s with parser := { parse := p, discards := s.parser.discards.bump d } } .downDiscard).after
    (.same rfl rfl)

theorem State.Upholds.discardCommand (s : State) : s.Upholds s.discardCommand :=
  (State.Upholds.raise { s with mgmt := { s.mgmt with discarded := satInc s.mgmt.discarded } } .mgmtDiscard).after
    (.same rfl rfl)

theorem State.Upholds.interruptDown (s : State) (p : DownParse) : s.Upholds (s.interruptDown p) := by
  unfold State.interruptDown
  split
  · exact .setParse _ _
  · exact .setParse _ _
  · exact .setParse _ _
  · exact .discardDown _ _ _
  · exact (State.Upholds.discardDown _ _ _).trans (.release _ _ _)

theorem State.Upholds.interruptCommand (s : State) (p : CmdParse) : s.Upholds (s.interruptCommand p) := by
  have cut : s.Upholds (s.setCmdParse p).discardCommand := (State.Upholds.setCmdParse _ _).trans (.discardCommand _)
  unfold State.interruptCommand
  split
  · exact .setCmdParse _ _
  · exact .setCmdParse _ _
  · exact cut
  · exact cut
  · exact cut
  · exact cut

theorem State.Upholds.parsersWait (s : State) : s.Upholds s.parsersWait :=
  (State.Upholds.interruptDown _ _).trans (.interruptCommand _ _)

theorem State.Upholds.appendDown (s : State) (r : DownRecord) : s.Upholds (s.appendDown r) := by
  unfold State.appendDown
  split
  · exact (State.Upholds.discardDown _ _ _).trans (.release _ _ _)
  · split
    · exact (State.Upholds.discardDown _ _ _).trans (.release _ _ _)
    · exact ((State.Upholds.setParse _ _).trans (.modLine _ _ _)).trans (.tryBegin _ _)

theorem State.Upholds.storePayload (s : State) (r : DownRecord) (k : Nat) (o : Octet) :
    s.Upholds (s.storePayload r k o) := by
  unfold State.storePayload
  dsimp only
  split
  · exact (State.Upholds.buffer s _).trans (.appendDown _ _)
  · exact (State.Upholds.buffer s _).trans (.setParse _ _)

theorem State.Upholds.feedPayload (s : State) (r : DownRecord) (k : Nat) (o : Octet) :
    s.Upholds (s.feedPayload r k o) := by
  unfold State.feedPayload
  split
  · split
    · exact (State.Upholds.discardDown _ _ _).trans (.release _ _ _)
    · exact (State.Upholds.buffer s _).trans (.storePayload _ _ _ _)
  · exact .storePayload _ _ _ _

theorem State.Upholds.headerComplete (s : State) (k : DownKind) (len : Nat) (station : Octet) :
    s.Upholds (s.headerComplete k len station) := by
  unfold State.headerComplete
  split
  · exact .discardDown _ _ _
  · split
    · exact .discardDown _ _ _
    · dsimp only
      split
      · exact (State.Upholds.buffer s _).trans (.appendDown _ _)
      · exact (State.Upholds.buffer s _).trans (.setParse _ _)

theorem State.Upholds.feedDown (s : State) (o : Octet) : s.Upholds (s.feedDown o) := by
  unfold State.feedDown
  split
  · exact .refl s
  · split
    · exact .refl s
    · split
      · exact .setParse _ _
      · exact .discardDown _ _ _
  · exact .setParse _ _
  · exact .headerComplete _ _ _ _
  · exact .feedPayload _ _ _ _
  · exact .setParse _ _
  · exact .setParse _ _

theorem State.Upholds.commandComplete (s : State) (c : Command) : s.Upholds (s.commandComplete c) := by
  unfold State.commandComplete
  dsimp only
  split
  · exact .same rfl rfl
  · exact (State.Upholds.setCmdParse _ _).trans (.discardCommand _)

theorem State.Upholds.feedCommand (s : State) (o : Octet) : s.Upholds (s.feedCommand o) := by
  unfold State.feedCommand
  split
  · exact .refl s
  · split
    · exact .refl s
    · exact .setCmdParse _ _
  · exact .setCmdParse _ _
  · split
    · exact .commandComplete _ _
    · split <;> exact .setCmdParse _ _
  · dsimp only
    split
    · exact .commandComplete _ _
    · exact .setCmdParse _ _
  · split
    · exact .commandComplete _ _
    · exact .setCmdParse _ _

theorem State.Upholds.takeSlots (s : State) (octets : List Octet) : s.Upholds (s.takeSlots octets) :=
  (State.Upholds.foldl State.Upholds.feedDown _ _).trans (.feedCommand _ _)

/-! ### The trunk -/

/-- A judgement of the streams leaves them RUNNING only while transmit-enable holds (R13). -/
theorem State.checkStreams_enabled (s : State) : s.checkStreams.StreamsEnabled := by
  rw [State.checkStreams_eq]
  split
  · exact .of_stopped rfl
  · rename_i h
    intro hr
    cases he : s.framer.transmitEnable with
    | true => rfl
    | false => exact absurd ⟨hr, he⟩ h

theorem State.checkStreams_events (s : State) : s.checkStreams.mgmt.events = s.mgmt.events := by
  rw [State.checkStreams_eq]
  split <;> rfl

/-- What comes before a judgement of the streams need not uphold the streams' law (R13). -/
theorem State.Upholds.checked {s t : State} (h : s.EventsCounted → t.EventsCounted) : s.Upholds t.checkStreams :=
  ⟨fun _ => t.checkStreams_enabled, fun hs => .of_events t.checkStreams_events (h hs)⟩

/-- A frame's completion changes the octets in progress and the frame last sent alone (log 8). -/
theorem Framer.finishFrame_eq (f : Framer) :
    f.finishFrame =
      { f with
        txOctets := []
        lastFrame := if f.txOctets = [] then f.lastFrame else f.txOctets ++ [crc8 (f.txOctets.drop 1)] } := by
  unfold Framer.finishFrame
  split
  · rename_i h
    have h := List.isEmpty_iff.mp h
    simp [← h]
  · rename_i h
    simp [List.isEmpty_iff.not.mp h]

/-- A frame starts the streams only while transmit-enable holds (R14). -/
theorem State.Upholds.startFrame (s : State) : s.Upholds s.startFrame where
  streams h := by
    unfold State.startFrame
    rw [State.beforeHeader_eq]
    intro hr
    rcases Bool.or_eq_true_iff.mp hr with hr | hr
    · exact h hr
    · simp only [Framer.restartDue, Bool.and_eq_true] at hr
      exact hr.2
  counts := by
    refine .of_events ?_
    unfold State.startFrame
    rw [State.beforeHeader_eq]
    split <;> rfl

theorem State.Upholds.sendOctet (s : State) (o : Octet) : s.Upholds (s.sendOctet o) := .framer s _ rfl rfl rfl

theorem State.Upholds.lineSlot (s : State) (n : LineNo) : s.Upholds (s.lineSlot n) := by
  unfold State.lineSlot
  split
  · exact (State.Upholds.sendOctet _ _).trans (.modLine _ _ _)
  · dsimp only
    split
    · exact (State.Upholds.sendOctet _ _).trans ((State.Upholds.modLine _ _ _).trans (.release _ _ _))
    · exact (State.Upholds.sendOctet _ _).trans (.modLine _ _ _)
  · exact .sendOctet _ _
  · exact .sendOctet _ _
  · exact .sendOctet _ _

theorem State.Upholds.dataSlot (s : State) (k : SlotNo) : s.Upholds (s.dataSlot k) := by
  unfold State.dataSlot
  split
  · exact .sendOctet _ _
  · exact .lineSlot _ _

/-- RESTARTED alone is present after a full reset, with a count of 1 (R168). -/
theorem Events.reset_count (c : Cause) (x : Condition) :
    (Events.reset c).count x = if x = .restarted then some 1 else none := by
  show (Events.put { counts := Vector.replicate 30 none, cause := c, source := none } .restarted (some 1)).count x = _
  rw [Events.count_put]
  exact if_congr Iff.rfl rfl (Vector.getElem_replicate _)

theorem Events.reset_counted (c : Cause) (x : Condition) : (Events.reset c).count x ≠ some 0 := by
  rw [Events.reset_count]
  split <;> decide

/-- After a full reset the streams are STOPPED and RESTARTED is present with a count of 1 (R20, R168). -/
theorem State.Upholds.of_reset {s t : State} (c : Cause) (hf : t.framer.running = false)
    (he : t.mgmt.events = .reset c) : s.Upholds t :=
  ⟨fun _ => .of_stopped hf, fun _ x => by rw [he]; exact Events.reset_counted c x⟩

theorem State.Upholds.fullReset (s : State) (c : Cause) : s.Upholds (s.fullReset c) := .of_reset c rfl rfl

/-- In QUIET no stream runs (R12, R13, R177). -/
theorem State.Upholds.beginQuiet (s : State) : s.Upholds s.beginQuiet :=
  .checked fun h => (State.Upholds.parsersWait _).counts (.of_events rfl h)

theorem State.Upholds.responseEnd (s : State) (r : Response) (rest : List Response) :
    s.Upholds (s.responseEnd r rest) := by
  unfold State.responseEnd
  dsimp only
  split
  · exact .same rfl rfl
  · exact (State.Upholds.fullReset _ _).after (.same rfl rfl)
  · exact (State.Upholds.beginQuiet _).after (.same rfl rfl)
  · split <;> exact .same rfl rfl

theorem State.Upholds.managementSlot (s : State) : s.Upholds s.managementSlot := by
  unfold State.managementSlot
  split
  · exact .sendOctet _ _
  · split
    · exact (State.Upholds.sendOctet _ _).trans (.same rfl rfl)
    · dsimp only
      split
      · exact (State.Upholds.sendOctet _ _).trans (.responseEnd _ _ _)
      · exact (State.Upholds.sendOctet _ _).trans (.same rfl rfl)
    · exact .sendOctet _ _

theorem State.Upholds.restartEvent (s : State) : s.Upholds s.restartEvent :=
  ((State.Upholds.framer s { s.framer with restarts := satInc s.framer.restarts } rfl rfl rfl).trans
    (.interruptDown _ _)).trans (.interruptCommand _ _)

theorem State.Upholds.deliver (s : State) (octets : List Octet) : s.Upholds (s.deliver octets) := by
  rw [State.deliver_eq]
  split
  · exact (State.Upholds.restartEvent s).trans (.takeSlots _ _)
  · exact .takeSlots _ _

/-- A framer outside OPERATIONAL has STOPPED streams and may go on with any that has (R12, R14). -/
theorem State.Upholds.stopped (s : State) (f : Framer) (hx : s.framer.rx ≠ .operational)
    (hr : f.running = s.framer.running) : s.Upholds { s with framer := f } :=
  ⟨fun h => .of_stopped (hr.trans (h.stopped hx)), .of_events rfl⟩

theorem State.Upholds.frameInSearch (s : State) (octets : List Octet) (h : s.framer.rx = .search) :
    s.Upholds (s.frameInSearch octets) := by
  unfold State.frameInSearch
  split
  · exact .stopped s _ (by simp [h]) rfl
  · exact .stopped s _ (by simp [h]) rfl

theorem State.Upholds.frameInConfirm (s : State) (octets : List Octet) (h : s.framer.rx = .confirm) :
    s.Upholds (s.frameInConfirm octets) := by
  unfold State.frameInConfirm
  split
  · exact .stopped s _ (by simp [h]) (by split <;> rfl)
  · exact .stopped s _ (by simp [h]) rfl

theorem State.Upholds.frameInAligned (s : State) (octets : List Octet) (h : s.framer.rx = .aligned) :
    s.Upholds (s.frameInAligned octets) := by
  have hx : s.framer.rx ≠ .operational := by simp [h]
  unfold State.frameInAligned
  split
  · dsimp only
    split
    · exact (State.Upholds.deliver _ _).after ((State.Upholds.parsersWait _).after (.stopped s _ hx rfl))
    · exact .stopped s _ hx rfl
  · dsimp only
    split
    · exact (State.Upholds.raise _ .trunk).after (.stopped s _ hx rfl)
    · exact .stopped s _ hx rfl

/-- A loss of alignment changes the framer and raises TRUNK (R8, R19). -/
theorem State.loseAlignment_counted {s : State} (h : s.EventsCounted) : s.loseAlignment.EventsCounted :=
  Events.raise_counted .trunk h

theorem State.Upholds.frameInOperational (s : State) (octets : List Octet) : s.Upholds (s.frameInOperational octets) := by
  unfold State.frameInOperational
  split
  · dsimp only
    split
    · exact (State.Upholds.deliver _ _).after (.checked (.of_events rfl))
    · exact .checked fun h => (State.Upholds.parsersWait _).counts (Events.raise_counted .trunk h)
  · dsimp only
    have waits := (State.Upholds.framer s
      { s.framer with
        badFrames := satInc s.framer.badFrames, badCount := s.framer.badCount + 1
        expected := s.framer.expected + 1 } rfl rfl rfl).trans (.parsersWait _)
    split
    · exact .checked fun h => State.loseAlignment_counted (waits.counts h)
    · exact waits

/-- The judgement of a frame upholds the two laws, by the receive state (R3 to R9). -/
theorem State.Upholds.judgeFrame (s : State) (octets : List Octet) : s.Upholds (s.judgeFrame octets) := by
  unfold State.judgeFrame
  split
  · rename_i h; exact .frameInSearch s octets h
  · rename_i h; exact .frameInConfirm s octets h
  · rename_i h; exact .frameInAligned s octets h
  · exact .frameInOperational s octets
  · exact .refl s

theorem State.Upholds.searchBit (s : State) (b : Bool) : s.Upholds (s.searchBit b) := by
  have hunts : s.Upholds { s with framer := s.framer.huntBit b } := .framer s _ rfl rfl rfl
  unfold State.searchBit
  dsimp only
  split
  · exact hunts
  · split
    · exact hunts.trans (.judgeFrame _ _)
    · exact hunts

theorem State.Upholds.alignedBit (s : State) (b : Bool) : s.Upholds (s.alignedBit b) := by
  unfold State.alignedBit
  dsimp only
  split
  · exact (State.Upholds.framer s { s.framer with rxBits := [] } rfl rfl rfl).trans (.judgeFrame _ _)
  · exact .framer s _ rfl rfl rfl

theorem State.Upholds.takeBit (s : State) (b : Bool) : s.Upholds (s.takeBit b) := by
  have counted : s.Upholds { s with framer := { s.framer with bitPos := s.framer.bitPos + 1 } } :=
    .framer s _ rfl rfl rfl
  unfold State.takeBit
  dsimp only
  split
  · exact counted.trans (.searchBit _ _)
  · exact counted.trans (.alignedBit _ _)
  · exact counted.trans (.alignedBit _ _)
  · exact counted.trans (.alignedBit _ _)
  · exact .refl s

/-! ### Line events, grants and wakes -/

/-- A row whose event cannot arise changes nothing, so only its effect matters (log 1). -/
theorem State.Upholds.guarded {s t : State} {p : Prop} [Decidable p] (h : p → s.Upholds t) :
    s.Upholds (if p then t else s) := by
  split
  · rename_i hp; exact h hp
  · exact .refl s

theorem State.Upholds.completeChar (s : State) (n : LineNo) (samples : BitVec 11) :
    s.Upholds (s.completeChar n samples) := by
  unfold State.completeChar
  dsimp only
  split
  · exact .modLine _ _ _
  · split
    · exact ((State.Upholds.modLine _ _ _).trans (.modLine _ _ _)).trans (.serve _ _)
    · exact ((State.Upholds.modLine _ _ _).trans (.modLine _ _ _)).trans (.raise _ _)

theorem State.Upholds.gapExpires (s : State) (n : LineNo) : s.Upholds (s.gapExpires n) :=
  ((State.Upholds.turnAway s n).trans (.modLine _ _ _)).trans (.tryBegin _ _)

theorem State.Upholds.receiverOn (s : State) (n : LineNo) : s.Upholds (s.receiverOn n) :=
  .guarded fun _ => .modLine _ _ _

theorem State.Upholds.receiverOff (s : State) (n : LineNo) : s.Upholds (s.receiverOff n) := by
  unfold State.receiverOff
  split
  · exact .refl s
  · exact ((((State.Upholds.modLine s n _).trans (.closeRecord _ _ _)).trans (.clearCont _ _)).trans
      (.modLine _ _ _)).trans (.tryBegin _ _)

theorem State.Upholds.recordEnd (s : State) (n : LineNo) (r : DownRecord) (rest : List DownRecord) :
    s.Upholds (s.recordEnd n r rest) := by
  have released := (State.Upholds.modLine s n (Line.elementEnded rest)).trans (.release _ r.chain r.desc)
  unfold State.recordEnd
  dsimp only
  split
  · exact released.trans (.modLine _ _ _)
  · exact (released.trans (.modLine _ _ _)).trans (.pollEnd _ _ _)

theorem State.Upholds.noReply (s : State) (n : LineNo) (w : ReplyWait) : s.Upholds (s.noReply n w) := by
  unfold State.noReply
  split
  · exact .raise _ _
  · exact (State.Upholds.buffer s _).trans (.modLine _ _ _)

theorem State.Upholds.replyExpires (s : State) (n : LineNo) (w : ReplyWait) : s.Upholds (s.replyExpires n w) :=
  (((State.Upholds.noReply s n w).trans (.modLine _ _ _)).trans (.pollEnd _ _ _)).trans (.tryBegin _ _)

theorem State.Upholds.transmitterOn (s : State) (n : LineNo) : s.Upholds (s.transmitterOn n) :=
  (State.Upholds.modLine _ _ _).trans (.tryBegin _ _)

theorem State.Upholds.flush (s : State) (n : LineNo) : s.Upholds (s.flush n) := by
  unfold State.flush
  split
  · exact .refl s
  · exact (State.Upholds.modLine _ _ _).after
      ((State.Upholds.foldl (fun u (x : DownRecord) => .pollEnd u x.channel .abandoned) _ _).after
        ((State.Upholds.wakePass _).after (.same rfl rfl)))

theorem State.Upholds.makePollRecord (s : State) (c : ChannelNo) (e : Script) (st : Station) :
    s.Upholds (s.makePollRecord c e st) := by
  unfold State.makePollRecord
  split
  · exact .refl s
  · refine ((State.Upholds.tryBegin _ _).after (.modChan _ _ _)).after ?_
    split
    · exact (State.Upholds.raise _ _).after (.same rfl rfl)
    · exact .same rfl rfl

theorem State.Upholds.grant (s : State) (c : ChannelNo) : s.Upholds (s.grant c) := by
  unfold State.grant
  dsimp only
  split
  · exact ((State.Upholds.raise _ _).after (.modChan _ _ _)).after (.same rfl rfl)
  · exact (State.Upholds.makePollRecord _ _ _ _).after (.same rfl rfl)

/-- A wake stops the streams and raises WAKE (R179). -/
theorem State.Upholds.wake (s : State) (source : WakeSource) : s.Upholds (s.wake source) := by
  unfold State.wake
  refine (State.Upholds.foldl State.Upholds.tryBegin allLines _).after ⟨fun _ => .of_stopped rfl, fun h c => ?_⟩
  exact Events.raise_counted .wake h c

theorem State.Upholds.tick (s : State) : s.Upholds s.tick := .guarded fun _ => .same rfl rfl

/-! ### Management commands -/

/-- The execution of a command upholds the two laws when its judgement does (R155). -/
theorem State.Upholds.execute {judge : Command → State → Judged} (h : ∀ c s, State.Upholds s (judge c s).state)
    (s : State) (names : Command → Bool) : s.Upholds (s.execute names judge) := by
  have answers : ∀ (t : State) (c : Command) (a : Option (Status × List Octet × Governs)), t.Upholds (t.respond c a) := by
    intro t c a
    cases a <;> exact .same rfl rfl
  unfold State.execute
  split
  · exact .refl s
  · rename_i c rest _
    refine .guarded fun _ => ?_
    have judged := (h c { s with mgmt := { s.mgmt with cib := rest } }).after (s := s) (.same rfl rfl)
    exact (judged.trans (answers _ c _)).trans (.same rfl rfl)

/-- A condition that Read Events takes out is absent, and the others stay as they are (R160). -/
theorem Events.drainInto_counted (cs : List Condition) (e : Events) (out : List Octet)
    (h : ∀ x, e.count x ≠ some 0) (x : Condition) : (Events.drainInto cs e out).1.count x ≠ some 0 := by
  induction cs generalizing e out with
  | nil => exact h x
  | cons c cs ih =>
    unfold Events.drainInto
    split
    · exact ih e out h
    · split
      · refine ih _ _ fun y => ?_
        rw [Events.count_put]
        split
        · simp
        · exact h y
      · exact h x

/-- The commands that act neither on the framer nor on the Event Summary. -/
def steadyJudges : List (Command → State → Judged) :=
  [judgeReadIdent, judgeSetSupervision, judgeEnterQuiet, judgeReadBuffer, judgeSetLine, judgeReadLine, judgeWriteStation,
    judgeInvalidateStation, judgeReadStation, judgeWriteSlot, judgeReadSlot, judgeSwapBanks, judgeWriteScript,
    judgeReadScript, judgeSetChannel, judgeReadChannel, judgeSetArbitration]

theorem steadyJudges_uphold {judge : Command → State → Judged} (h : judge ∈ steadyJudges) (c : Command) (s : State) :
    s.Upholds (judge c s).state := by
  suffices same : (judge c s).state.framer = s.framer ∧ (judge c s).state.mgmt.events = s.mgmt.events from
    .same same.1 same.2
  simp only [steadyJudges, List.mem_cons, List.not_mem_nil, or_false] at h
  rcases h with rfl | rfl | rfl | rfl | rfl | rfl | rfl | rfl | rfl | rfl | rfl | rfl | rfl | rfl | rfl | rfl | rfl
  · unfold judgeReadIdent; repeat' split
    all_goals exact ⟨rfl, rfl⟩
  · unfold judgeSetSupervision; repeat' split
    all_goals exact ⟨rfl, rfl⟩
  · unfold judgeEnterQuiet; repeat' split
    all_goals exact ⟨rfl, rfl⟩
  · unfold judgeReadBuffer; repeat' split
    all_goals exact ⟨rfl, rfl⟩
  · unfold judgeSetLine; repeat' split
    all_goals exact ⟨rfl, rfl⟩
  · unfold judgeReadLine; repeat' split
    all_goals exact ⟨rfl, rfl⟩
  · unfold judgeWriteStation; repeat' split
    all_goals exact ⟨rfl, rfl⟩
  · unfold judgeInvalidateStation; repeat' split
    all_goals exact ⟨rfl, rfl⟩
  · unfold judgeReadStation; repeat' split
    all_goals exact ⟨rfl, rfl⟩
  · unfold judgeWriteSlot; repeat' split
    all_goals exact ⟨rfl, rfl⟩
  · unfold judgeReadSlot; repeat' split
    all_goals exact ⟨rfl, rfl⟩
  · unfold judgeSwapBanks; repeat' split
    all_goals exact ⟨rfl, rfl⟩
  · unfold judgeWriteScript; repeat' split
    all_goals exact ⟨rfl, rfl⟩
  · unfold judgeReadScript; repeat' split
    all_goals exact ⟨rfl, rfl⟩
  · unfold judgeSetChannel; repeat' split
    all_goals exact ⟨rfl, rfl⟩
  · unfold judgeReadChannel; repeat' split
    all_goals exact ⟨rfl, rfl⟩
  · unfold judgeSetArbitration; repeat' split
    all_goals exact ⟨rfl, rfl⟩

theorem judgeReadEvents_upholds (c : Command) (s : State) : s.Upholds (judgeReadEvents c s).state := by
  unfold judgeReadEvents
  split
  · exact ⟨.of_framer rfl rfl rfl, fun h => Events.drainInto_counted _ _ _ h⟩
  · exact .refl s

theorem State.Upholds.clearCounters (s : State) (g : CounterGroup) : s.Upholds (s.clearCounters g) := by
  cases g with
  | line n => exact .same rfl rfl
  | trunk => exact .framer s _ rfl rfl rfl
  | discards => exact .same rfl rfl
  | management => exact .same rfl rfl

theorem judgeReadCounters_upholds (c : Command) (s : State) : s.Upholds (judgeReadCounters c s).state := by
  unfold judgeReadCounters
  split
  · split
    · exact .guarded fun _ => .clearCounters s _
    · exact .refl s
    · exact .refl s
  · exact .refl s

theorem judgeReset_upholds (sc : Scope) {effect : State → Judged} (h : ∀ s, State.Upholds s (effect s).state)
    (c : Command) (s : State) : s.Upholds (judgeReset sc effect c s).state := by
  unfold judgeReset
  split
  · split
    · exact h s
    · exact .refl s
  · exact .refl s

theorem deviceReset_upholds (s : State) : s.Upholds (deviceReset s).state := by
  unfold deviceReset
  split
  · exact .same rfl rfl
  · exact .fullReset _ _

theorem State.Upholds.linesReset (s : State) : s.Upholds s.linesReset := by
  have cut : (s.mapLines Line.linesReset).Upholds (s.mapLines Line.linesReset).linesResetParser := by
    unfold State.linesResetParser
    split
    · exact .refl _
    · exact .refl _
    · exact .refl _
    · exact .discardDown _ _ _
    · exact .discardDown _ _ _
    · exact .discardDown _ _ _
  exact (cut.after (s := s) (.same rfl rfl)).trans (.same rfl rfl)

theorem State.Upholds.countersReset (s : State) : s.Upholds s.countersReset :=
  ⟨.of_framer rfl rfl rfl, .of_events rfl⟩

theorem judgeLineControl_upholds (c : Command) (s : State) : s.Upholds (judgeLineControl c s).state := by
  have receiver : ∀ (u : State) (n : LineNo) (a : SwitchAction), u.Upholds (u.receiverAction n a) := by
    intro u n a
    cases a with
    | none => exact .refl u
    | on => exact .receiverOn u n
    | off => exact .receiverOff u n
  have transmitter : ∀ (u : State) (n : LineNo) (a : SwitchAction), u.Upholds (u.transmitterAction n a) := by
    intro u n a
    cases a with
    | none => exact .refl u
    | on => exact .transmitterOn u n
    | off => exact .same rfl rfl
  unfold judgeLineControl
  split
  · split
    · rename_i n rx tx fl _ _ _ _
      refine ((receiver s n rx).trans (transmitter _ n tx)).trans ?_
      cases fl with
      | false => exact .refl _
      | true => exact .flush _ _
    · exact .refl s
  · exact .refl s

theorem judgePollControl_upholds (a : PollAction) {effect : ChannelNo → State → Judged}
    (h : ∀ k s, State.Upholds s (effect k s).state) (c : Command) (s : State) :
    s.Upholds (judgePollControl a effect c s).state := by
  unfold judgePollControl
  split
  · split
    · exact .refl s
    · split
      · exact h _ s
      · exact .refl s
  · exact .refl s

/-! ### Rows -/

/-- Every row goes on to a next state, and upholds the two laws. -/
theorem exec_upholds (i : Instr) (s : State) : ∃ t, exec i s = .next t ∧ s.Upholds t := by
  cases i with
  | upstreamFrameStart => exact ⟨_, rfl, .guarded fun _ => .startFrame s⟩
  | upstreamDataSlot =>
    refine ⟨_, rfl, ?_⟩
    split
    · exact .dataSlot s _
    · exact .refl s
  | managementSlot => exact ⟨_, rfl, .guarded fun _ => .managementSlot s⟩
  | quietEntry =>
    refine ⟨_, rfl, .guarded fun _ => ?_⟩
    refine (State.Upholds.foldl State.Upholds.quietDrain allLines _).after ⟨?_, .of_events rfl⟩
    rw [Framer.finishFrame_eq]
    exact .of_framer rfl rfl rfl
  | downstreamFrameJudged bits octets => exact ⟨_, rfl, .guarded fun _ => .foldl State.Upholds.takeBit _ s⟩
  | characterComplete n samples => exact ⟨_, rfl, .guarded fun _ => .completeChar s n samples⟩
  | breakHoldEnd n => exact ⟨_, rfl, .guarded fun _ => .modLine s n _⟩
  | settleEnd n => exact ⟨_, rfl, .guarded fun _ => .modLine s n _⟩
  | gapExpiry n => exact ⟨_, rfl, .guarded fun _ => .gapExpires s n⟩
  | replyTimeout n =>
    refine ⟨_, rfl, ?_⟩
    split
    · exact .refl s
    · exact .guarded fun _ => .replyExpires s n _
  | transmitRestEnd n => exact ⟨_, rfl, .guarded fun _ => (State.Upholds.modLine s n _).trans (.tryBegin _ n)⟩
  | transmitRecordEnd n =>
    refine ⟨_, rfl, .guarded fun _ => ?_⟩
    split
    · exact .refl s
    · exact .recordEnd s n _ _
  | pollIntervalExpiry c => exact ⟨_, rfl, .guarded fun _ => .modChan s c _⟩
  | pollGrant =>
    refine ⟨_, rfl, ?_⟩
    split
    · exact .refl s
    · exact .grant s _
  | supervisionExpiry =>
    refine ⟨_, rfl, .guarded fun _ => ?_⟩
    split
    · exact (State.Upholds.raise _ _).after (.same rfl rfl)
    · exact .fullReset s _
  | powerOnReset => exact ⟨_, rfl, .of_reset .power rfl rfl⟩
  | pinReset =>
    refine ⟨_, rfl, ?_⟩
    split
    · exact .refl s
    · exact .of_reset .pin rfl rfl
  | resetEnd =>
    refine ⟨_, rfl, ?_⟩
    split
    · exact .refl s
    · exact .of_reset .pin rfl rfl
    · exact .of_reset .power rfl rfl
  | trunkWake => exact ⟨_, rfl, .guarded fun _ => .wake s _⟩
  | lineWake n => exact ⟨_, rfl, .guarded fun _ => .wake s _⟩
  | readEvents => exact ⟨_, rfl, .execute judgeReadEvents_upholds s _⟩
  | readCounters => exact ⟨_, rfl, .execute judgeReadCounters_upholds s _⟩
  | resetDevice => exact ⟨_, rfl, .execute (judgeReset_upholds .device deviceReset_upholds) s _⟩
  | resetLines => exact ⟨_, rfl, .execute (judgeReset_upholds .lines .linesReset) s _⟩
  | resetCounters => exact ⟨_, rfl, .execute (judgeReset_upholds .counters .countersReset) s _⟩
  | startEdge n => exact ⟨_, rfl, .guarded fun _ => .modLine s n _⟩
  | startBitSample n level => exact ⟨_, rfl, .guarded fun _ => .modLine s n _⟩
  | lineLowInWait n => exact ⟨_, rfl, .guarded fun _ => .modLine s n _⟩
  | arm => exact ⟨_, rfl, .execute (judgePollControl_upholds .arm fun k u => .modChan u k _) s _⟩
  | mask => exact ⟨_, rfl, .execute (judgePollControl_upholds .mask fun k u => .modChan u k _) s _⟩
  | pollNow =>
    refine ⟨_, rfl, .execute (judgePollControl_upholds .pollNow fun k u => ?_) s _⟩
    split
    · exact .refl u
    · exact .modChan u k _
  | lineControl | receiverOn | receiverOff | transmitterOn | transmitterOff | flush =>
    exact ⟨_, rfl, .execute judgeLineControl_upholds s _⟩
  | unknownCommand | overlengthCommand => exact ⟨_, rfl, .execute (fun _ u => .refl u) s _⟩
  | readIdent | setSupervision | enterQuiet | readBuffer | setLine | readLine | writeStation | invalidateStation
  | readStation | writeSlot | readSlot | swapBanks | writeScript | readScript | setChannel | readChannel
  | setArbitration => exact ⟨_, rfl, .execute (steadyJudges_uphold (by simp [steadyJudges])) s _⟩

/-- Every step upholds the two laws. -/
theorem step_upholds {s t : State} (h : step s = .next t) : s.Upholds t := by
  refine step_keeps (P := State.Upholds s) (fun u _ hu => hu.trans (.same rfl rfl)) (fun i u v hu hv => ?_)
    (fun u hu => hu.trans (.tick u)) (.refl s) h
  obtain ⟨w, hw, k⟩ := exec_upholds i u
  rw [hw] at hv
  cases hv
  exact hu.trans k

/-- Settles O59: the two laws by `step_upholds`, and raising by what a count is after one more occurrence. -/
theorem stepKeepsStreamsAndEvents : Obligations.StepKeepsStreamsAndEvents := by
  refine ⟨fun s t h hs => (step_upholds hs).streams h, fun s t h hs => (step_upholds hs).counts h, fun s c x => ?_,
    satInc_toNat⟩
  have here : (s.raise c).mgmt.events.count c = raisedCount (s.mgmt.events.count c) := by
    rw [State.raise_events, Events.count_raise, if_pos rfl]
  refine ⟨fun h => ?_, fun v h => ?_, fun hx => ?_, here.symm, rfl⟩
  · rw [here, h]; rfl
  · rw [here, h]; exact raisedCount_some v
  · rw [State.raise_events, Events.count_raise, if_neg hx]

end Sys2Proof.Machine
end

section
/-! SUPPORT. The upstream frame: its start field by field (O4), its check octet (O5), and Quiet entry line by line (O9). -/

namespace Sys2Proof.Machine

/-! ### The start of a frame -/

/-- The line streams at the start of a frame: those that are held are freed when the hold ends (R103, R105). -/
def State.streamsFreed (s : State) : State :=
  if s.holdEnds then s.mapLines fun l => { l with pos := l.pos.freed } else s

/-- The header of the frame about to begin (R2). -/
def State.nextHeader (s : State) : Octet :=
  headerOctet s.mgmt.events.attention s.framer.remoteAlarm
    (if s.framer.txNumber = 0 then s.slots.exchange else s.slots).active s.framer.restartDue s.framer.txNumber

/-- The start of a frame, field by field. -/
theorem State.startFrame_eq (s : State) :
    s.startFrame =
      { s.streamsFreed with
        framer :=
          { s.framer with
            running := s.framer.running || s.framer.restartDue
            sentNumber := s.framer.txNumber
            txNumber := s.framer.txNumber + 1
            txOctets := [Config.sync, s.nextHeader]
            lastFrame :=
              if s.framer.txOctets.isEmpty then s.framer.lastFrame
              else s.framer.txOctets ++ [crc8 (s.framer.txOctets.drop 1)] }
        slots := if s.framer.txNumber = 0 then s.slots.exchange else s.slots
        serializer := { s.serializer with lineHold := if s.holdEnds then .none else s.serializer.lineHold } } := by
  unfold State.startFrame
  rw [State.beforeHeader_eq]
  unfold State.nextHeader State.streamsFreed
  split <;> rfl

/-- A frame begins whenever no reset holds the part, it is not in QUIET, and no frame is unfinished (R1, R11, R169). -/
theorem exec_upstreamFrameStart {s : State} (held : s.held = .no) (rx : s.framer.rx ≠ .quiet)
    (octets : s.framer.txOctets = [] ∨ s.framer.txOctets.length = 31) :
    exec .upstreamFrameStart s = .next s.startFrame := by
  have may : s.mayStartFrame = true := by simpa [State.mayStartFrame, held, rx] using octets
  show Host.Outcome.next (if s.mayStartFrame then s.startFrame else s) = .next s.startFrame
  rw [if_pos may]

theorem Framer.restartDue_iff (f : Framer) :
    f.restartDue = true ↔ f.txNumber = 0 ∧ f.running = false ∧ f.transmitEnable = true := by
  simp [Framer.restartDue, and_assoc]

theorem Framer.transmitEnable_iff (f : Framer) :
    f.transmitEnable = true ↔ f.rx = .operational ∧ f.farAlarm = false := by
  simp [Framer.transmitEnable]

theorem Framer.remoteAlarm_iff (f : Framer) :
    f.remoteAlarm = true ↔ f.rx = .search ∨ f.rx = .confirm ∨ f.rx = .aligned := by
  simp [Framer.remoteAlarm, or_assoc]

theorem SlotMap.exchange_if (m : SlotMap) (p : Prop) [Decidable p] :
    (if p then m.exchange else m) =
      if p ∧ m.swapPending = true then { m with active := m.active + 1, swapPending := false } else m := by
  unfold SlotMap.exchange
  by_cases hp : p <;> simp [hp]

/-- The freed streams differ in their positions alone. -/
theorem State.streamsFreed_line (s : State) (n : LineNo) :
    s.streamsFreed.line n =
      { s.line n with pos := if s.holdEnds then (s.line n).pos.freed else (s.line n).pos } := by
  unfold State.streamsFreed
  split
  · rw [State.mapLines_line]
  · rfl

theorem StreamPos.freed_eq (p : StreamPos) : p.freed = if p = .restartPending then .idle else p := by
  cases p <;> rfl

/-- A line of the state that begins a frame. -/
theorem State.startFrame_line (s : State) (n : LineNo) :
    s.startFrame.line n =
      { s.line n with pos := if s.holdEnds then (s.line n).pos.freed else (s.line n).pos } := by
  rw [← State.streamsFreed_line, State.startFrame_eq]
  rfl

/-- Only the framer's transmit side, the slot map, the lines and the serializer change. -/
theorem State.startFrame_frame (s : State) :
    s.startFrame =
      { s with
        framer :=
          { s.framer with
            running := s.startFrame.framer.running, txNumber := s.startFrame.framer.txNumber
            sentNumber := s.startFrame.framer.sentNumber, txOctets := s.startFrame.framer.txOctets
            lastFrame := s.startFrame.framer.lastFrame }
        lines := s.startFrame.lines
        slots := s.startFrame.slots
        serializer := s.startFrame.serializer } := by
  rw [State.startFrame_eq]
  unfold State.streamsFreed
  split <;> rfl

/-- Settles O4: the start of a frame field by field, and the header's indicators by `headerOctet_fields`. -/
theorem frameStart : Obligations.FrameStart := by
  constructor
  · intro s held rx octets
    obtain ⟨number, attention, alarm, bank, restart⟩ :=
      headerOctet_fields s.mgmt.events.attention s.framer.remoteAlarm
        (if s.framer.txNumber = 0 then s.slots.exchange else s.slots).active s.framer.restartDue s.framer.txNumber
    have slots : s.startFrame.slots = if s.framer.txNumber = 0 then s.slots.exchange else s.slots := by
      rw [State.startFrame_eq]
    refine ⟨s.startFrame, s.nextHeader, exec_upstreamFrameStart held rx octets, ?_, number, attention, ?_, ?_, ?_,
      ?_, ?_, slots.trans (SlotMap.exchange_if _ _), fun n => ?_, ?_, s.startFrame_frame⟩
    · rw [State.startFrame_eq]; rfl
    · rw [State.nextHeader, alarm, Framer.remoteAlarm_iff]
    · rw [State.nextHeader, bank, slots]
    · rw [State.nextHeader, restart, Framer.restartDue_iff, Framer.transmitEnable_iff]
    · rw [State.startFrame_eq]
    · rw [State.startFrame_eq]
    · rw [State.startFrame_line]
    · rw [State.startFrame_eq]
  · intro s held rx octets
    refine ⟨s.startFrame, exec_upstreamFrameStart held rx octets, ?_⟩
    have running : s.startFrame.framer.running = (s.framer.running || s.framer.restartDue) := by
      rw [State.startFrame_eq]
    have hold : s.startFrame.serializer.lineHold = if s.holdEnds then .none else s.serializer.lineHold := by
      rw [State.startFrame_eq]
    simp only [running, hold, State.startFrame_line, StreamPos.freed_eq, ← Framer.restartDue_iff]
    split
    · rename_i due
      simp [due, State.holdEnds]
    · rename_i due
      split
      · rename_i ending
        simp [due, State.holdEnds, ending]
      · rename_i ending
        simp [due, State.holdEnds, ending]

/-! ### The check octet -/

/-- The check octet completes a frame that began with the sync octet to a good frame (R1, R3, R183). -/
theorem goodFrame_of_checked {octets : List Octet} (length : octets.length = 31) (sync : octets.head? = some 0xD3) :
    goodFrame (octets ++ [crc8 (octets.drop 1)]) = true := by
  cases octets with
  | nil => cases sync
  | cons o os =>
    cases sync
    have len : os.length = 30 := by simpa using length
    simp [goodFrame, frameOctet, len, Config.sync]

/-- Settles O5: an octet's CRC with its own register is 00h, and the start of the next frame keeps the frame checked. -/
theorem checkOctetMakesTheFrameGood : Obligations.CheckOctetMakesTheFrameGood := by
  refine ⟨crc8_check, fun s held rx length sync => ?_⟩
  have last : s.startFrame.framer.lastFrame = s.framer.txOctets ++ [crc8 (s.framer.txOctets.drop 1)] := by
    have : s.framer.txOctets.isEmpty = false := by
      rw [List.isEmpty_eq_false_iff_exists_mem]
      exact ⟨0xD3, List.mem_of_head? sync⟩
    rw [State.startFrame_eq]
    simp [this]
  exact ⟨s.startFrame, exec_upstreamFrameStart held rx (.inr length), last, last ▸ goodFrame_of_checked length sync⟩

/-! ### Quiet entry -/

/-- What of a line the end of a response leaves alone, among the things that its Record Assembler keeps. -/
theorem State.responseOver_assembler (s : State) (n : LineNo) (w : WaitName) :
    ((s.responseOver n w).line n).openRec = (s.line n).openRec ∧
      ((s.responseOver n w).line n).cont = (s.line n).cont ∧
      ((s.responseOver n w).line n).upQueue = (s.line n).upQueue ∧
      ((s.responseOver n w).line n).stage = (s.line n).stage ∧
      ((s.responseOver n w).line n).starved = (s.line n).starved := by
  simp only [State.responseOver, State.pollEnd_line, State.modLine_line_self, Line.settleDrain]
  split <;> exact ⟨rfl, rfl, rfl, rfl, rfl⟩

/-- A line whose traffic turns away: its open record joins the upstream queue as it stands, and its stage stays (R60). -/
theorem State.turnAway_assembler (s : State) (n : LineNo) :
    ((s.turnAway n).line n).openRec = none ∧ ((s.turnAway n).line n).cont = none ∧
      ((s.turnAway n).line n).upQueue = (s.line n).upQueue ++ (s.line n).openRec.toList ∧
      ((s.turnAway n).line n).stage = (s.line n).stage ∧ ((s.turnAway n).line n).starved = (s.line n).starved := by
  obtain ⟨calm, ended⟩ := s.turnAway_line n
  by_cases ends : (s.line n).openRec.isSome = true ∨ ∃ m, (s.line n).cont = some m ∧ m.kind = .response
  · cases mark : (s.line n).respMark with
    | none =>
      rw [calm (.inl mark), State.modLine_line_self]
      cases (s.line n).openRec <;> simp
    | some w =>
      obtain ⟨o, c, q, g, v⟩ := State.responseOver_assembler _ n w
      rw [ended w mark ends, o, c, q, g, v, State.modLine_line_self]
      cases (s.line n).openRec <;> simp
  · rw [calm (.inr ends), State.modLine_line_self]
    cases (s.line n).openRec <;> simp

/-- A line after its part of Quiet entry: no record is open, and with an empty stage the upstream queue has grown by
the record that was; a starved line keeps its stage (R64). -/
theorem State.quietDrain_line (s : State) (n : LineNo) :
    ((s.quietDrain n).line n).openRec = none ∧ ((s.quietDrain n).line n).gapTimer = none ∧
      ((s.quietDrain n).line n).cont = none ∧
      ((s.line n).stage = [] →
        ((s.quietDrain n).line n).upQueue = (s.line n).upQueue ++ (s.line n).openRec.toList) ∧
      ((s.line n).starved = true →
        ((s.quietDrain n).line n).stage = (s.line n).stage ∧ ((s.quietDrain n).line n).starved = true) := by
  obtain ⟨o, c, q, g, v⟩ := (s.drain n).turnAway_assembler n
  simp only [State.quietDrain, State.modLine_line_self]
  refine ⟨o, trivial, c, fun stage => ?_, fun starved => ?_⟩
  · rw [q, State.drain_nil stage]
  · rw [g, v, State.drain_nothing (.inl starved)]
    exact ⟨rfl, starved⟩

theorem State.Beside.quietDrains (ns : List LineNo) (s : State) : s.Beside (ns.foldl State.quietDrain s) := by
  induction ns generalizing s with
  | nil => exact .refl s
  | cons n ns ih => exact (State.Beside.quietDrain s n).trans (ih _)

/-- The other lines' parts of Quiet entry leave a line alone. -/
theorem State.quietDrains_other (ns : List LineNo) {n : LineNo} (h : n ∉ ns) (s : State) :
    (ns.foldl State.quietDrain s).line n = s.line n := by
  induction ns generalizing s with
  | nil => rfl
  | cons m ms ih =>
    obtain ⟨hm, hms⟩ := not_or.mp (List.mem_cons.not.mp h)
    rw [List.foldl_cons, ih hms, State.OtherLines.quietDrain m s n hm]

/-- Each line's part of Quiet entry meets the line as it was at the beginning. -/
theorem State.quietDrains_line (ns : List LineNo) (nodup : ns.Nodup) {n : LineNo} (h : n ∈ ns) (s : State) :
    ∃ u : State, u.line n = s.line n ∧ (ns.foldl State.quietDrain s).line n = (u.quietDrain n).line n := by
  induction ns generalizing s with
  | nil => cases h
  | cons m ms ih =>
    obtain ⟨fresh, nodup⟩ := List.nodup_cons.mp nodup
    rw [List.foldl_cons]
    by_cases hm : n = m
    · subst hm
      exact ⟨s, rfl, State.quietDrains_other ms fresh _⟩
    · obtain ⟨u, hu, e⟩ := ih nodup ((List.mem_cons.mp h).resolve_left hm) (s.quietDrain m)
      exact ⟨u, hu.trans (State.OtherLines.quietDrain m s n hm), e⟩

/-- No line waits for a reply, and no reply is in progress (R176). -/
def State.NoneWaits (s : State) : Prop := ∀ n : LineNo, (s.line n).wait = none ∧ (s.line n).respMark = none

/-- Without reply waits Quiet entry tells no channel anything. -/
theorem State.quietDrains_poll (ns : List LineNo) (s : State) (h : s.NoneWaits) :
    (ns.foldl State.quietDrain s).poll = s.poll := by
  induction ns generalizing s with
  | nil => rfl
  | cons m ms ih =>
    obtain ⟨wait, mark, poll⟩ := (State.Assembles.quietDrain m s).calm (h m).1 (h m).2
    refine (ih (s.quietDrain m) fun n => ?_).trans poll
    by_cases hn : n = m
    · subst hn
      exact ⟨wait, mark⟩
    · rw [State.OtherLines.quietDrain m s n hn]
      exact h n

/-- The state in which Quiet entry meets the lines: the frame is complete, the QUIET flag is set and every receiver
that is not OFF is in WATCH (R11, R38, R177). -/
def State.quietBegun (s : State) : State :=
  { s with
    framer :=
      { s.framer with txOctets := [], lastFrame := s.framer.txOctets ++ [crc8 (s.framer.txOctets.drop 1)] }
    quiet := { s.quiet with flag := true } }.mapLines Line.toWatch

theorem exec_quietEntry {s : State} (rx : s.framer.rx = .quiet) (flag : s.quiet.flag = false)
    (octets : s.framer.txOctets.length = 31) :
    exec .quietEntry s = .next (allLines.foldl State.quietDrain s.quietBegun) := by
  have some : s.framer.txOctets ≠ [] := fun h => by simp [h] at octets
  show Host.Outcome.next (if s.framer.rx = .quiet ∧ s.quiet.flag = false ∧ s.framer.txOctets.length = 31 then _ else s)
    = _
  rw [if_pos ⟨rx, flag, octets⟩, Framer.finishFrame_eq, if_neg some]
  rfl

/-- A line at Quiet entry, from the line that enters it. -/
theorem State.quietEntry_line (s : State) (n : LineNo) :
    let l := (allLines.foldl State.quietDrain s.quietBegun).line n
    l.rx = (if (s.line n).rx = .off then .off else .watch) ∧ l.openRec = none ∧ l.gapTimer = none ∧ l.cont = none ∧
      (∃ closed : List UpRecord,
        l.upQueue = (s.line n).upQueue ++ closed ∧ ((s.line n).stage = [] → closed = (s.line n).openRec.toList)) ∧
      ((s.line n).starved = true → l.stage = (s.line n).stage ∧ l.starved = true) ∧
      l.downQueue = (s.line n).downQueue ∧ l.quietHold = (s.line n).quietHold := by
  intro l
  obtain ⟨u, hu, e⟩ := State.quietDrains_line allLines (by decide) (n := n) (by revert n; decide) s.quietBegun
  have watch : u.line n = (s.line n).toWatch := hu.trans (State.mapLines_line _ _ n)
  have rx : (u.line n).rx = if (s.line n).rx = .off then .off else .watch := by
    rw [watch, Line.toWatch]
    split <;> simp [*]
  have same : (u.line n).openRec = (s.line n).openRec ∧ (u.line n).upQueue = (s.line n).upQueue ∧
      (u.line n).stage = (s.line n).stage ∧ (u.line n).starved = (s.line n).starved ∧
      (u.line n).downQueue = (s.line n).downQueue ∧ (u.line n).quietHold = (s.line n).quietHold := by
    rw [watch, Line.toWatch]
    split <;> exact ⟨rfl, rfl, rfl, rfl, rfl, rfl⟩
  obtain ⟨openRec, upQueue, stage, starved, downQueue, quietHold⟩ := same
  have work := State.Assembles.quietDrain n u
  obtain ⟨noOpen, noGap, noCont, closes, keeps⟩ := u.quietDrain_line n
  have hl : l = (u.quietDrain n).line n := e
  rw [hl, ← rx, ← openRec, ← upQueue, ← stage, ← starved, ← downQueue, ← quietHold]
  obtain ⟨closed, grown⟩ := work.upQueue
  refine ⟨work.rx, noOpen, noGap, noCont, ⟨closed, grown.symm, fun h => ?_⟩, keeps, work.downQueue, work.quietHold⟩
  exact List.append_cancel_left (grown.trans (closes h))

/-- Settles O9: Quiet entry line by line (`State.quietEntry_line`), and what stands beside line work. -/
theorem quietEntryClosesEveryLine : Obligations.QuietEntryClosesEveryLine := by
  intro s rx flag octets
  have beside := State.Beside.quietDrains allLines s.quietBegun
  have waits : (∀ n : LineNo, (s.line n).wait = none ∧ (s.line n).respMark = none) → s.quietBegun.NoneWaits := by
    intro h n
    rw [State.quietBegun, State.mapLines_line, Line.toWatch]
    split <;> exact h n
  refine ⟨_, exec_quietEntry rx flag octets, rfl, beside.quiet, ?_, ?_, s.quietEntry_line,
    fun h => State.quietDrains_poll allLines _ (waits h), beside.cib, beside.responses, beside.exec, beside.stations,
    beside.slots, beside.script, beside.sup⟩
  · rw [beside.framer]; rfl
  · rw [beside.framer]; rfl

end Sys2Proof.Machine
end

section
/-! SUPPORT. Downstream frames: the streams that stop and what the parsers' interruption cuts (O13), the judgement of a frame by the receive state (O11, O12), and the bits that make a frame (O10). -/

namespace Sys2Proof.Machine

/-! ### Streams that stop, and records that are cut -/

theorem StreamPos.breakOff_eq (p : StreamPos) : p.breakOff = if p = .restartPending then .restartPending else .idle := by
  cases p <;> rfl

/-- Streams that are STOPPED, or that run under transmit-enable, stay as they are (R13). -/
theorem State.checkStreams_same {s : State} (h : s.framer.running = false ∨ s.framer.transmitEnable = true) :
    s.checkStreams = s := by
  rw [State.checkStreams_eq, if_neg]
  rintro ⟨running, off⟩
  rcases h with h | h
  · rw [running] at h; cases h
  · rw [off] at h; cases h

/-- Streams that run without transmit-enable are broken off (R13, R102). -/
theorem State.checkStreams_stops {s : State} (running : s.framer.running = true)
    (off : s.framer.transmitEnable = false) : s.checkStreams = s.breakOff := by
  rw [State.checkStreams_eq, if_pos ⟨running, off⟩]

/-- A judgement of the streams changes of the framer their state alone. -/
theorem State.checkStreams_framer (s : State) :
    s.checkStreams.framer = { s.framer with running := s.framer.running && s.framer.transmitEnable } := by
  rw [State.checkStreams_eq]
  split
  · rename_i h
    rw [h.2, Bool.and_false]
    rfl
  · rename_i h
    have keeps : (s.framer.running && s.framer.transmitEnable) = s.framer.running := by
      cases hr : s.framer.running <;> simp_all
    rw [keeps]

/-- A judgement of the streams leaves alone what is neither the framer nor a stream. -/
theorem State.checkStreams_rest (s : State) :
    s.checkStreams.parser = s.parser ∧ s.checkStreams.mgmt = s.mgmt ∧ s.checkStreams.stations = s.stations ∧
      s.checkStreams.slots = s.slots ∧ s.checkStreams.sup = s.sup ∧ s.checkStreams.quiet = s.quiet := by
  rw [State.checkStreams_eq]
  split <;> exact ⟨rfl, rfl, rfl, rfl, rfl, rfl⟩

/-- An interruption leaves a parser that has no record under construction with nothing discarded (R15). -/
theorem State.interruptDown_idle {s : State} (next : DownParse)
    (h : s.parser.parse = .waitRestart ∨ s.parser.parse = .between ∨ ∃ k, s.parser.parse = .skip k) :
    s.interruptDown next = s.setParse next := by
  unfold State.interruptDown
  rcases h with h | h | ⟨k, h⟩ <;> rw [h]

/-- A command parser that is not between commands and not waiting has a command under construction (R154). -/
theorem State.interruptCommand_cut {s : State} (next : CmdParse) (wait : s.mgmt.parse ≠ .waitRestart)
    (between : s.mgmt.parse ≠ .between) : s.interruptCommand next = (s.setCmdParse next).discardCommand := by
  unfold State.interruptCommand
  cases h : s.mgmt.parse with
  | waitRestart => exact absurd h wait
  | between => exact absurd h between
  | _ => rfl

/-- Settles O13: `checkStreams` by its two cases, and the interruptions by the parse state that they meet. -/
theorem stoppedStreamsAndCutRecords : Obligations.StoppedStreamsAndCutRecords := by
  refine ⟨fun s => ⟨fun h => State.checkStreams_same (.inl h), fun h => State.checkStreams_same (.inr h),
    fun running off => ?_⟩, fun s next next' => ⟨fun k l h => ?_, fun r k h => ?_, State.interruptDown_idle next,
    fun h => ?_, fun wait between => ?_⟩⟩
  · rw [State.checkStreams_stops running off, State.breakOff]
    simp only [StreamPos.breakOff_eq]
  · unfold State.interruptDown
    rw [h]
    rfl
  · unfold State.interruptDown
    rw [h]
    rfl
  · unfold State.interruptCommand
    rcases h with h | h <;> rw [h] <;> rfl
  · rw [State.interruptCommand_cut next' wait between]
    rfl

/-! ### Frames in OPERATIONAL -/

/-- The bits that end a frame bring about its judgement by the receive state (R3, R5). -/
theorem exec_frame {s : State} {bits : List Bool} {octets : List Octet} (held : s.held = .no)
    (follows : s.framer.rx.follows) (ends : s.framer.Completes bits octets) :
    exec (.downstreamFrameJudged bits []) s = .next (s.afterFrame.judgeFrame octets) := by
  refine (State.exec_bits s bits [] held).trans ?_
  rw [show trunkBits [] = [] from rfl, List.append_nil, State.takeBits_completes s bits octets follows ends]

/-- Placing both parsers in WAIT_RESTART keeps the commands taken in. -/
theorem State.parsersWait_cib (s : State) : s.parsersWait.mgmt.cib = s.mgmt.cib := by
  obtain ⟨-, -, -, -, cib⟩ := State.interruptCommand_rest (s.interruptDown .waitRestart) .waitRestart
  obtain ⟨-, kept, -, -⟩ := s.interruptDown_commands .waitRestart
  exact cib.trans kept

/-- The parsers' interruption raises no TRUNK (R19). -/
theorem State.parsersWait_trunk (s : State) :
    s.parsersWait.mgmt.events.count .trunk = s.mgmt.events.count .trunk :=
  s.parsersWait_count .trunk (fun n h => by cases h) (by simp) (by simp)

theorem State.raise_count (s : State) (c : Condition) :
    (s.raise c).mgmt.events.count c = raisedCount (s.mgmt.events.count c) := by
  rw [State.raise_events, Events.count_raise, if_pos rfl]

/-- A frame that reached neither parser: both wait for a restart event, and the commands, the responses, the tables and
the timers are as they were (R8, R9, R15). -/
structure State.PassedBy (s t : State) : Prop where
  down : t.parser.parse = .waitRestart
  command : t.mgmt.parse = .waitRestart
  cib : t.mgmt.cib = s.mgmt.cib
  responses : t.mgmt.responses = s.mgmt.responses
  stations : t.stations = s.stations
  slots : t.slots = s.slots
  sup : t.sup = s.sup
  quiet : t.quiet = s.quiet

theorem State.PassedBy.parsersWait (s : State) (f : Framer) : s.PassedBy { s with framer := f }.parsersWait := by
  obtain ⟨down, command⟩ := State.parsersWait_parse { s with framer := f }
  have beside := State.BesideParsers.parsersWait { s with framer := f }
  exact ⟨down, command, State.parsersWait_cib _, beside.responses, beside.stations, beside.slots, beside.sup,
    beside.quiet⟩

theorem State.PassedBy.checkStreams {s t : State} (h : s.PassedBy t) : s.PassedBy t.checkStreams := by
  obtain ⟨parser, mgmt, stations, slots, sup, quiet⟩ := t.checkStreams_rest
  constructor
  · rw [parser]; exact h.down
  · rw [mgmt]; exact h.command
  · rw [mgmt]; exact h.cib
  · rw [mgmt]; exact h.responses
  · rw [stations]; exact h.stations
  · rw [slots]; exact h.slots
  · rw [sup]; exact h.sup
  · rw [quiet]; exact h.quiet

theorem State.PassedBy.loseAlignment {s t : State} (h : s.PassedBy t) : s.PassedBy t.loseAlignment :=
  ⟨h.down, h.command, h.cib, h.responses, h.stations, h.slots, h.sup, h.quiet⟩

theorem State.judgeFrame_operational {s : State} (octets : List Octet) (rx : s.framer.rx = .operational) :
    s.judgeFrame octets = s.frameInOperational octets := by
  unfold State.judgeFrame
  rw [rx]

/-- A bad frame in OPERATIONAL as the framer counts it (R8). -/
def Framer.badFrame (f : Framer) : Framer :=
  { f with badFrames := satInc f.badFrames, badCount := f.badCount + 1, expected := f.expected + 1 }

/-- A bad frame in OPERATIONAL: both parsers wait, and the fourth in a row is an alignment loss (R8, R15, R19). -/
theorem State.judgeFrame_bad {s : State} {octets : List Octet} (rx : s.framer.rx = .operational)
    (bad : goodFrame octets = false) :
    s.judgeFrame octets =
      if 4 ≤ s.framer.badCount + 1 then
        { s with framer := s.framer.badFrame }.parsersWait.loseAlignment.checkStreams
      else { s with framer := s.framer.badFrame }.parsersWait := by
  have count : { s with framer := s.framer.badFrame }.parsersWait.framer.badCount = s.framer.badCount + 1 := by
    rw [(State.BesideParsers.parsersWait _).framer]; rfl
  rw [← count, State.judgeFrame_operational octets rx, State.frameInOperational, bad]
  rfl

/-- A cycle slip as the framer counts it (R9). -/
def Framer.slip (f : Framer) (alarm : Bool) : Framer :=
  { f with rx := .aligned, badCount := 0, farAlarm := alarm, slips := satInc f.slips }

/-- A good frame in OPERATIONAL with another number than the expected one is a cycle slip (R9, R15, R19). -/
theorem State.judgeFrame_slip {s : State} {octets : List Octet} (rx : s.framer.rx = .operational)
    (good : goodFrame octets = true) (number : headerNumber (frameOctet octets 1) ≠ s.framer.expected) :
    s.judgeFrame octets =
      ({ s with framer := s.framer.slip (headerRemoteAlarm (frameOctet octets 1)) }.raise
        .trunk).parsersWait.checkStreams := by
  rw [State.judgeFrame_operational octets rx, State.frameInOperational, if_pos good]
  dsimp only
  rw [if_neg number]
  rfl

/-- A good frame in OPERATIONAL with the expected number is delivered (R7, R12, R13). -/
theorem State.judgeFrame_expected {s : State} {octets : List Octet} (rx : s.framer.rx = .operational)
    (good : goodFrame octets = true) (number : headerNumber (frameOctet octets 1) = s.framer.expected) :
    s.judgeFrame octets =
      { s with
        framer :=
          { s.framer with
            badCount := 0, farAlarm := headerRemoteAlarm (frameOctet octets 1)
            expected := s.framer.expected + 1 } }.checkStreams.deliver octets := by
  rw [State.judgeFrame_operational octets rx, State.frameInOperational, if_pos good]
  dsimp only
  rw [if_pos number]

/-- After a judgement of the streams that ran without transmit-enable no stream is sending (R102). -/
theorem State.checkStreams_pos {s : State} (running : s.framer.running = true)
    (off : s.framer.transmitEnable = false) (n : LineNo) (k : Nat) : (s.checkStreams.line n).pos ≠ .sending k := by
  rw [State.checkStreams_stops running off, State.breakOff_line]
  exact StreamPos.breakOff_ne_sending _ k

/-- Settles O11: `State.judgeFrame_bad` and `State.judgeFrame_slip`, with what the parsers' interruption and the
judgement of the streams keep. -/
theorem badFrameAndCycleSlip : Obligations.BadFrameAndCycleSlip := by
  constructor
  · intro s bits octets held rx ends bad u v lost
    have framer : v.framer = u.framer.badFrame :=
      (State.BesideParsers.parsersWait { u with framer := u.framer.badFrame }).framer
    have passed : s.PassedBy v := State.PassedBy.parsersWait s u.framer.badFrame
    have lost_eq : lost = v.loseAlignment.checkStreams := by
      simp only [lost, framer, State.loseAlignment]
      rfl
    refine ⟨if 4 ≤ s.framer.badCount + 1 then lost else v, ?_, rfl, ?_⟩
    · rw [exec_frame held (.inr (.inr rx)) ends, State.judgeFrame_bad (s := s.afterFrame) rx bad, lost_eq]
      rfl
    · by_cases fourth : 4 ≤ s.framer.badCount + 1
      · have passed : s.PassedBy lost := lost_eq ▸ passed.loseAlignment.checkStreams
        rw [if_pos fourth]
        refine ⟨passed.down, passed.command, fun few => by omega, fun _ => ⟨?_, ?_⟩, passed.cib, passed.responses,
          passed.stations, passed.slots, passed.sup, passed.quiet⟩
        · rw [lost_eq, State.checkStreams_framer]
          simp only [State.loseAlignment, State.raise_framer, framer, Framer.transmitEnable, Framer.beginHunt]
          rw [show (Align.search == Align.operational) = false from rfl, Bool.false_and, Bool.and_false]
          rfl
        · rw [lost_eq, State.checkStreams_events]
          refine (State.raise_count _ .trunk).trans (congrArg raisedCount ?_)
          exact State.parsersWait_trunk { u with framer := u.framer.badFrame }
      · rw [if_neg fourth]
        exact ⟨passed.down, passed.command, fun _ => framer, fun many => by omega, passed.cib, passed.responses,
          passed.stations, passed.slots, passed.sup, passed.quiet⟩
  · intro s bits octets held rx ends good number u slipped
    have framer : slipped.parsersWait.framer = u.framer.slip (headerRemoteAlarm (frameOctet octets 1)) :=
      (State.BesideParsers.parsersWait slipped).framer
    have off : slipped.parsersWait.framer.transmitEnable = false := by rw [framer]; rfl
    have waits : slipped.PassedBy slipped.parsersWait := State.PassedBy.parsersWait slipped slipped.framer
    have passed := waits.checkStreams
    refine ⟨slipped.parsersWait.checkStreams, ?_, rfl, ?_, ?_, passed.down, passed.command, fun running => ?_,
      passed.cib, passed.responses, passed.stations, passed.slots, passed.sup, passed.quiet⟩
    · rw [exec_frame held (.inr (.inr rx)) ends, State.judgeFrame_slip (s := s.afterFrame) rx good number]
      rfl
    · rw [State.checkStreams_framer, off, Bool.and_false, framer]
      rfl
    · rw [State.checkStreams_events, State.parsersWait_trunk]
      exact State.raise_count _ .trunk
    · refine State.checkStreams_pos ?_ off
      rw [framer]
      exact running

/-- Settles O12: `State.judgeFrame_expected`, and a delivery as the slots behind the restart event. -/
theorem expectedFrameIsDelivered : Obligations.ExpectedFrameIsDelivered := by
  intro s bits octets held rx ends good number u v
  have delivered : exec (.downstreamFrameJudged bits []) s = .next (u.deliver octets) := by
    rw [exec_frame held (.inr (.inr rx)) ends, State.judgeFrame_expected (s := s.afterFrame) rx good number]
    rfl
  rw [delivered, State.deliver_eq]
  refine ⟨fun restart => ?_, fun restart => ?_⟩
  · rw [restart]; rfl
  · obtain ⟨down, command⟩ := u.restartEvent_parse
    rw [restart]
    exact ⟨rfl, down, command, u.restartEvent_framer⟩

end Sys2Proof.Machine
end

section
/-! SUPPORT. Alignment (O10): the hunt bit by bit, and the judgement of a frame in CONFIRM and in ALIGNED. -/

namespace Sys2Proof.Machine

/-! ### Bits in steps of any length -/

/-- Bits may be reported together or in two steps (R3; log 6). -/
theorem exec_bits_append {s t : State} {xs : List Bool} (ys : List Bool)
    (h : exec (.downstreamFrameJudged xs []) s = .next t) :
    exec (.downstreamFrameJudged (xs ++ ys) []) s = exec (.downstreamFrameJudged ys []) t := by
  have run : ∀ (u : State) (zs : List Bool),
      exec (.downstreamFrameJudged zs []) u = .next (if u.held = .no then zs.foldl State.takeBit u else u) := by
    intro u zs
    show Host.Outcome.next (if u.held = .no then (zs ++ []).foldl State.takeBit u else u) = _
    rw [List.append_nil]
  rw [run] at h
  cases h
  rw [run, run]
  by_cases held : s.held = .no
  · simp only [held, if_true, State.takeBits_held, List.foldl_append]
  · simp only [held, if_false]

/-! ### The hunt -/

/-- A bit with which the oldest candidate is complete: a good one ends the search, and a bad one is dropped alone (R4). -/
theorem exec_huntBit_judged {s : State} {b : Bool} {c : List Bool} {rest : List (List Bool)} (held : s.held = .no)
    (rx : s.framer.rx = .search) (oldest : (s.framer.huntBit b).candidates = c :: rest) (length : c.length = 256) :
    exec (.downstreamFrameJudged [b] []) s =
      .next
        (if goodFrame (octetsOf c) = true then
          { s with
            framer :=
              { s.framer with
                rx := .confirm, goodCount := 1, bitPos := s.framer.bitPos + 1, alignPos := s.framer.bitPos + 1
                recent := [], candidates := [], rxBits := [] } }
        else
          { s with
            framer := { s.framer.huntBit b with bitPos := s.framer.bitPos + 1, candidates := rest } }) := by
  refine (State.exec_bits s [b] [] held).trans (congrArg _ ?_)
  refine (State.takeBit_judged s b c rest rx oldest length).trans ?_
  unfold State.frameInSearch
  split
  · rfl
  · rw [oldest]; rfl

/-- A bit with which no candidate is complete: every open candidate has taken it (R4). -/
theorem exec_huntBit_open {s : State} {b : Bool} (held : s.held = .no) (rx : s.framer.rx = .search)
    (oldest : ∀ c ∈ (s.framer.huntBit b).candidates.head?, c.length ≠ 256) :
    exec (.downstreamFrameJudged [b] []) s =
      .next { s with framer := { s.framer.huntBit b with bitPos := s.framer.bitPos + 1 } } :=
  (State.exec_bits s [b] [] held).trans (congrArg _ (State.takeBit_hunt s b rx oldest))

/-! ### CONFIRM and ALIGNED -/

theorem State.judgeFrame_confirm {s : State} (octets : List Octet) (rx : s.framer.rx = .confirm) :
    s.judgeFrame octets = s.frameInConfirm octets := by
  unfold State.judgeFrame
  rw [rx]

theorem State.judgeFrame_aligned {s : State} (octets : List Octet) (rx : s.framer.rx = .aligned) :
    s.judgeFrame octets = s.frameInAligned octets := by
  unfold State.judgeFrame
  rw [rx]

/-- A good frame 0 in ALIGNED enters OPERATIONAL, with both parsers waiting, and is delivered (R6). -/
theorem State.frameInAligned_zero {s : State} {octets : List Octet} (good : goodFrame octets = true)
    (number : headerNumber (frameOctet octets 1) = 0) :
    s.frameInAligned octets =
      { s with
        framer :=
          { s.framer with
            rx := .operational, expected := 1, badCount := 0
            farAlarm := headerRemoteAlarm (frameOctet octets 1) } }.parsersWait.deliver octets := by
  unfold State.frameInAligned
  rw [if_pos good]
  dsimp only
  rw [if_pos number]

/-- A delivery changes of the framer its count of restart events alone (R7, R16). -/
theorem State.deliver_framer (s : State) (octets : List Octet) :
    (s.deliver octets).framer =
      { s.framer with
        restarts :=
          if headerRestart (frameOctet octets 1) = true then satInc s.framer.restarts else s.framer.restarts } := by
  rw [State.deliver_eq, (State.BesideParsers.takeSlots _ _).framer]
  split
  · exact s.restartEvent_framer
  · rfl

/-- A frame without a restart event passes parsers that wait (R7, R15). -/
theorem State.deliver_waiting {s : State} {octets : List Octet} (down : s.parser.parse = .waitRestart)
    (command : s.mgmt.parse = .waitRestart) (restart : headerRestart (frameOctet octets 1) = false) :
    s.deliver octets = s := by
  rw [State.deliver_eq, restart]
  exact State.takeSlots_waiting s octets down command

/-- Settles O10: the hunt by its two kinds of bit, and CONFIRM and ALIGNED by the judgement of the frame that ends. -/
theorem alignmentIsGained : Obligations.AlignmentIsGained := by
  refine ⟨fun s t xs ys => exec_bits_append ys, fun s bits octets => ?_, fun s b held rx => ⟨?_, ?_⟩,
    fun s octets held rx recent candidates good => ?_, fun s bits held => ⟨fun rx => ?_, fun follows within => ?_⟩,
    fun s bits octets held rx ends => ⟨fun good => ?_, fun bad => ?_⟩,
    fun s bits octets held rx ends => ⟨fun good number => ?_, fun bad => ?_, fun good number => ?_⟩⟩
  · show execDownstreamFrameJudged _ _ s = execDownstreamFrameJudged (bits ++ trunkBits octets) [] s
    unfold execDownstreamFrameJudged
    rw [show trunkBits [] = [] from rfl, List.append_nil]
  · exact fun c rest oldest length => exec_huntBit_judged held rx oldest length
  · exact exec_huntBit_open held rx
  · exact (State.exec_bits s [] octets held).trans
      (congrArg _ (State.takeBits_goodFrame s octets rx recent candidates good))
  · refine (State.exec_bits s bits [] held).trans (congrArg _ ?_)
    exact State.takeBits_quiet s _ rx
  · refine (State.exec_bits s bits [] held).trans (congrArg _ ?_)
    rw [show trunkBits [] = [] from rfl, List.append_nil]
    exact State.takeBits_within s bits follows within
  · rw [exec_frame held (.inl rx) ends, State.judgeFrame_confirm (s := s.afterFrame) octets rx,
      State.frameInConfirm, if_pos good]
  · rw [exec_frame held (.inl rx) ends, State.judgeFrame_confirm (s := s.afterFrame) octets rx,
      State.frameInConfirm, bad]
    rfl
  · rw [exec_frame held (.inr (.inl rx)) ends, State.judgeFrame_aligned (s := s.afterFrame) octets rx,
      State.frameInAligned, if_pos good]
    dsimp only
    rw [if_neg number]
  · rw [exec_frame held (.inr (.inl rx)) ends, State.judgeFrame_aligned (s := s.afterFrame) octets rx,
      State.frameInAligned, bad]
    rfl
  · intro f v w
    have delivered : exec (.downstreamFrameJudged bits []) s = .next (v.deliver octets) := by
      rw [exec_frame held (.inr (.inl rx)) ends, State.judgeFrame_aligned (s := s.afterFrame) octets rx,
        State.frameInAligned_zero good number]
      rfl
    have framer : v.framer = f := (State.BesideParsers.parsersWait { s.afterFrame with framer := f }).framer
    obtain ⟨down, command⟩ : v.parser.parse = .waitRestart ∧ v.mgmt.parse = .waitRestart :=
      State.parsersWait_parse { s.afterFrame with framer := f }
    have restarted : v.restartEvent = w := by
      simp only [w, State.restartEvent, framer]
    refine ⟨?_, fun t ht => ?_⟩
    · rw [delivered, State.deliver_eq, restarted]
    · rw [delivered] at ht
      cases ht
      refine ⟨?_, fun restart => ?_⟩
      · rw [State.deliver_framer, framer]
      · rw [State.deliver_waiting down command restart]
        exact ⟨down, command⟩

end Sys2Proof.Machine
end

section
/-! SUPPORT. Resets and wakes: the values after a power-on reset (O3), the power-on and pin resets (O49), and the wakes (O51). -/

namespace Sys2Proof.Machine

/-! ### Reading the reset state -/

theorem reset_line (n : LineNo) : State.reset.line n = .reset := Vector.getElem_replicate _

theorem reset_chan (c : ChannelNo) : State.reset.chan c = .reset := Vector.getElem_replicate _

theorem reset_station (k : Octet) : State.reset.station k = .reset := Vector.getElem_replicate _

theorem reset_script (k : EntryNo) : State.reset.poll.script[k] = .reset := Vector.getElem_replicate _

theorem reset_slot (b : Fin 2) (k : SlotNo) : (State.reset.slots.banks[b])[k] = .reset := by
  have bank : State.reset.slots.banks[b] = Vector.replicate 28 .reset := Vector.getElem_replicate _
  rw [bank]
  exact Vector.getElem_replicate _

theorem reset_freeBlocks : State.reset.buffer.freeBlocks.length = 512 := by
  simp [State.reset, Buffer.reset, Config.blocks]

theorem reset_freeDescs : State.reset.buffer.freeDescs.length = 192 := by
  simp [State.reset, Buffer.reset, Config.descriptors]

/-- Settles O3: the lines, channels, stations, slots and script entries have their reset values each, and the rest is
read off the reset state. -/
theorem resetLeavesTheTablesValues : Obligations.ResetLeavesTheTablesValues := by
  refine ⟨rfl, rfl, rfl, rfl, rfl, rfl, rfl, rfl, rfl, fun n => ?lines, fun k => ?stations,
    reset_freeBlocks, reset_freeDescs, rfl, reset_slot, rfl, rfl, rfl,
    rfl, rfl, rfl, fun k => ?scripts, fun c => ?channels, rfl, rfl, rfl, rfl, rfl, rfl, Events.reset_count .power, rfl,
    rfl, rfl, rfl, rfl, rfl, rfl, rfl, rfl, rfl⟩
  case lines =>
    rw [reset_line]
    decide
  case stations =>
    rw [reset_station]
    decide
  case scripts =>
    rw [reset_script]
    decide
  case channels =>
    rw [reset_chan]
    decide

/-! ### Power-on and pin resets -/

/-- A full reset gives every block its reset values (R20, R169, R172). -/
theorem State.fullReset_eq (s : State) (c : Cause) : s.fullReset c = s.afterFullReset c := rfl

/-- Settles O49: a held part and a part after the reset's end are each a full reset, after which RESTARTED alone is
present (`Events.reset_count`). -/
theorem powerOnAndPinResets : Obligations.PowerOnAndPinResets := by
  intro s heldReset
  have pin : exec .pinReset s = .next (if s.held = .power then s else heldReset .pin .pin) := rfl
  refine ⟨rfl, fun h => by rw [pin, if_neg h], fun h => by rw [pin, if_pos h], fun h => ?_, fun h => ?_, fun h => ?_,
    fun cause t ht => ?_⟩
  · show execResetEnd s = _
    rw [execResetEnd, h, State.fullReset_eq]
    rfl
  · show execResetEnd s = _
    rw [execResetEnd, h, State.fullReset_eq]
    rfl
  · show execResetEnd s = _
    rw [execResetEnd, h]
  · subst ht
    exact ⟨Events.reset_count cause, rfl, rfl, rfl, rfl, rfl, rfl⟩

/-! ### Wakes -/

/-- Settles O51: a wake whose conditions hold is `State.wake`, and any other changes nothing. -/
theorem wakesEndTheQuietState : Obligations.WakesEndTheQuietState := by
  intro s n woken
  have wakes : ∀ source, s.wake source = allLines.foldl State.tryBegin (woken source) := fun _ => rfl
  have trunk : exec .trunkWake s =
      .next (if s.quiet.flag = true ∧ s.quiet.wakeOnTrunk = true then s.wake .trunk else s) := rfl
  have line : exec (.lineWake n) s =
      .next (if s.quiet.flag = true ∧ (s.line n).rx = .watch ∧ (s.line n).params.wake = true then s.wake (.line n)
        else s) := rfl
  refine ⟨fun flag enabled => ?_, fun h => ?_, fun flag watch enabled => ?_, fun h => ?_⟩
  · rw [trunk, if_pos ⟨flag, enabled⟩, wakes]
    rfl
  · rw [trunk, if_neg]
    rintro ⟨flag, enabled⟩
    simp [flag, enabled] at h
  · rw [line, if_pos ⟨flag, watch, enabled⟩, wakes]
    rfl
  · rw [line, if_neg]
    rintro ⟨flag, watch, enabled⟩
    simp [flag, watch, enabled] at h

end Sys2Proof.Machine
end

section
/-! SUPPORT. The sizes of the queues and the lines' quotas, kept by every step (O55): a line's three bounds, line work, the parsers, the trunk, the commands, and then each row. -/

namespace Sys2Proof.Machine

/-! ### The bounds of a line -/

/-- Of a line's three bounds, each that holds of `l` holds of `m`: its downstream queue, its staged characters and its
upstream blocks (R28, R82, R116). -/
structure Line.KeepsBounds (l m : Line) : Prop where
  queue : l.downQueue.length ≤ Config.downQueueSize → m.downQueue.length ≤ Config.downQueueSize
  stage : l.stageCount ≤ Config.stageSize → m.stageCount ≤ Config.stageSize
  blocks : l.upBlocks ≤ l.params.quota → m.upBlocks ≤ m.params.quota

theorem Line.KeepsBounds.refl (l : Line) : l.KeepsBounds l := ⟨id, id, id⟩

theorem Line.KeepsBounds.trans {l m k : Line} (h : l.KeepsBounds m) (g : m.KeepsBounds k) : l.KeepsBounds k :=
  ⟨g.queue ∘ h.queue, g.stage ∘ h.stage, g.blocks ∘ h.blocks⟩

/-- What the three bounds read of a line. -/
def Line.bounded (l : Line) : Nat × List DownRecord × List StageItem × Option UpRecord × List UpRecord :=
  (l.params.quota, l.downQueue, l.stage, l.openRec, l.upQueue)

theorem Line.KeepsBounds.of_bounded {l m : Line} (h : m.bounded = l.bounded) : l.KeepsBounds m := by
  simp only [Line.bounded, Prod.mk.injEq] at h
  obtain ⟨quota, queue, stage, opened, closed⟩ := h
  constructor
  · rw [queue]; exact id
  · simp only [Line.stageCount, stage]; exact id
  · simp only [Line.upBlocks, quota, opened, closed]; exact id

/-- A change that makes no bounded thing larger, nor the quota smaller. -/
theorem Line.KeepsBounds.of_le {l m : Line} (queue : m.downQueue.length ≤ l.downQueue.length)
    (stage : m.stageCount ≤ l.stageCount) (blocks : m.upBlocks ≤ l.upBlocks) (quota : m.params.quota = l.params.quota) :
    l.KeepsBounds m :=
  ⟨queue.trans, stage.trans, fun h => quota ▸ blocks.trans h⟩

/-- Some of the stage's items hold no more characters than all of them. -/
theorem Line.stageCount_le_of_sublist {l m : Line} (h : l.stage.Sublist m.stage) : l.stageCount ≤ m.stageCount :=
  (h.filter _).length_le

theorem Line.settleDrain_bounded (l : Line) : l.settleDrain.bounded = l.bounded := by
  unfold Line.settleDrain
  split <;> rfl

theorem UpRecord.closedBy_chain (r : UpRecord) (c : CloseCause) : (r.closedBy c).chain = r.chain := by
  cases c <;> rfl

/-- A record that closes keeps its blocks on the line (R65, R82). -/
theorem Line.closeOpen_upBlocks (c : CloseCause) (l : Line) : (l.closeOpen c).upBlocks = l.upBlocks := by
  unfold Line.closeOpen
  split
  · rfl
  · rename_i r h
    simp [Line.upBlocks, h, UpRecord.closedBy_chain, Nat.add_comm]

theorem Line.KeepsBounds.closeOpen (c : CloseCause) (l : Line) : l.KeepsBounds (l.closeOpen c) := by
  refine .of_le (Nat.le_of_eq (by rw [(l.closeOpen_keeps c).2.1])) (Nat.le_of_eq ?_) (Nat.le_of_eq (l.closeOpen_upBlocks c)) ?_
  all_goals
    unfold Line.closeOpen
    split <;> rfl

/-- An opening claim is granted below the quota, and takes one block (R78). -/
theorem Line.KeepsBounds.openNew {l : Line} (none : l.openRec = .none) (room : l.upBlocks < l.params.quota)
    (station : Option Octet) (m : Bool) (d k : Nat) : l.KeepsBounds (l.openNew station m d k) := by
  refine ⟨id, id, fun _ => ?_⟩
  have one : (l.openNew station m d k).upBlocks = l.upBlocks + 1 := by
    simp [Line.upBlocks, Line.openNew, none, Nat.add_comm]
  exact one ▸ room

/-- A growth claim is granted below the quota, and takes one block (R78). -/
theorem Line.KeepsBounds.grow {l : Line} {r : UpRecord} (opened : l.openRec = some r)
    (room : l.upBlocks < l.params.quota) (k : Nat) :
    l.KeepsBounds { l with openRec := some { r with chain := r.chain ++ [k] } } := by
  refine ⟨id, id, fun _ => ?_⟩
  have one : ({ l with openRec := some { r with chain := r.chain ++ [k] } } : Line).upBlocks = l.upBlocks + 1 := by
    simp [Line.upBlocks, opened, Nat.add_right_comm]
  exact one ▸ room

/-- A character that is stored takes no block of its own (R57). -/
theorem Line.KeepsBounds.append {l : Line} {r : UpRecord} (opened : l.openRec = some r) (e : StageEntry) :
    l.KeepsBounds { l with openRec := some (r.append e) } :=
  ⟨id, id, by simp only [Line.upBlocks, opened]; exact id⟩

/-- The staged characters are the items of the stage that are no markers (R60). -/
theorem Line.stageCount_eq (l : Line) : l.stageCount = (l.stage.filter fun i => !i.isMarker).length := by
  unfold Line.stageCount
  congr 2
  funext i
  cases i <;> rfl

theorem Line.beginMarker_markers (l : Line) (r : DownRecord) :
    (l.beginMarker r).filter (fun i => !i.isMarker) = [] := by
  unfold Line.beginMarker
  split
  · rfl
  · split <;> rfl

/-- The marker of a record that begins is no staged character (R60). -/
theorem Line.KeepsBounds.begin (r : DownRecord) (payload : List Octet) (l : Line) :
    l.KeepsBounds (l.begin r payload) := by
  have count : (l.begin r payload).stageCount = l.stageCount := by
    simp only [Line.stageCount_eq, Line.begin, List.filter_append, Line.beginMarker_markers, List.append_nil]
  exact ⟨id, count ▸ id, id⟩

/-! ### What is kept -/

/-- Of the bounds of every line and of the Command Input Buffer, each that holds in `s` holds in `t`, and the Response
Queue is no longer than it was (R28, R82, R116, R153, R158). -/
structure State.KeepsBounds (s t : State) : Prop where
  lines : ∀ n : LineNo, (s.line n).KeepsBounds (t.line n)
  commands : s.mgmt.cib.length ≤ Config.commandBufferSize → t.mgmt.cib.length ≤ Config.commandBufferSize
  responses : t.mgmt.responses.length ≤ s.mgmt.responses.length

theorem State.KeepsBounds.refl (s : State) : s.KeepsBounds s := ⟨fun _ => .refl _, id, Nat.le_refl _⟩

theorem State.KeepsBounds.trans {s t u : State} (h : s.KeepsBounds t) (k : t.KeepsBounds u) : s.KeepsBounds u :=
  ⟨fun n => (h.lines n).trans (k.lines n), k.commands ∘ h.commands, k.responses.trans h.responses⟩

/-- The last operation first: its result tells the state before it. -/
theorem State.KeepsBounds.after {s t u : State} (k : t.KeepsBounds u) (h : s.KeepsBounds t) : s.KeepsBounds u :=
  h.trans k

/-- A change that leaves the lines alone and makes no queue of the Management Unit longer. -/
theorem State.KeepsBounds.same {s t : State} (lines : t.lines = s.lines := by rfl)
    (commands : t.mgmt.cib.length ≤ s.mgmt.cib.length := by exact Nat.le_refl _)
    (responses : t.mgmt.responses.length ≤ s.mgmt.responses.length := by exact Nat.le_refl _) : s.KeepsBounds t := by
  refine ⟨fun n => ?_, commands.trans, responses⟩
  have line : t.line n = s.line n := by simp only [State.line, lines]
  exact line ▸ .refl _

/-- A change beside the lines and the Management Unit. -/
theorem State.KeepsBounds.aside {s t : State} (lines : t.lines = s.lines := by rfl) (mgmt : t.mgmt = s.mgmt := by rfl) :
    s.KeepsBounds t :=
  .same lines (by rw [mgmt]) (by rw [mgmt])

theorem State.KeepsBounds.modLine {s : State} {n : LineNo} {f : Line → Line}
    (h : (s.line n).KeepsBounds (f (s.line n))) : s.KeepsBounds (s.modLine n f) := by
  refine ⟨fun m => ?_, id, Nat.le_refl _⟩
  rw [State.modLine_line]
  split
  · rename_i e; exact e ▸ h
  · exact .refl _

/-- A change of a line that touches nothing a bound reads. -/
theorem State.KeepsBounds.steady (s : State) (n : LineNo) {f : Line → Line}
    (h : ∀ l, (f l).bounded = l.bounded := by exact fun _ => rfl) :
    s.KeepsBounds (s.modLine n f) := .modLine (.of_bounded (h _))

theorem State.KeepsBounds.mapLines (s : State) {f : Line → Line} (h : ∀ l : Line, l.KeepsBounds (f l)) :
    s.KeepsBounds (s.mapLines f) :=
  ⟨fun n => by rw [State.mapLines_line]; exact h _, id, Nat.le_refl _⟩

theorem State.KeepsBounds.modChan (s : State) (c : ChannelNo) (f : Channel → Channel) : s.KeepsBounds (s.modChan c f) :=
  .aside

theorem State.KeepsBounds.buffer (s : State) (b : Buffer) : s.KeepsBounds { s with buffer := b } := .aside

theorem State.KeepsBounds.raise (s : State) (c : Condition) : s.KeepsBounds (s.raise c) :=
  .same

/-! ### Line work -/

theorem State.KeepsBounds.pollEnd (s : State) (c : Octet) (o : PollOutcome) : s.KeepsBounds (s.pollEnd c o) :=
  .aside (State.pollEnd_lines s c o) (State.pollEnd_mgmt s c o)

theorem State.KeepsBounds.endResponse (s : State) (n : LineNo) : s.KeepsBounds (s.endResponse n) := by
  unfold State.endResponse
  split
  · exact .refl s
  · exact (State.KeepsBounds.pollEnd _ _ _).after (.steady s n fun l => Line.settleDrain_bounded _)

theorem State.KeepsBounds.closeRecord (s : State) (n : LineNo) (c : CloseCause) : s.KeepsBounds (s.closeRecord n c) := by
  have closed : s.KeepsBounds (if c = .truncated then (s.modLine n (Line.closeOpen c)).raise (.lineLoss n)
      else s.modLine n (Line.closeOpen c)) := by
    split
    · exact (State.KeepsBounds.raise _ _).after (.modLine (.closeOpen c _))
    · exact .modLine (.closeOpen c _)
  unfold State.closeRecord
  split
  · exact .refl s
  · dsimp only
    split
    · exact closed
    · exact closed.trans (.endResponse _ _)

theorem State.KeepsBounds.clearCont (s : State) (n : LineNo) : s.KeepsBounds (s.clearCont n) := by
  have cleared : s.KeepsBounds (s.modLine n fun l => { l with cont := none, gapTimer := none }) :=
    .steady s n
  unfold State.clearCont
  split
  · exact .refl s
  · dsimp only
    split
    · exact cleared.trans (.endResponse _ _)
    · exact cleared

theorem State.KeepsBounds.turnAway (s : State) (n : LineNo) : s.KeepsBounds (s.turnAway n) :=
  (State.KeepsBounds.closeRecord _ _ _).trans (.clearCont _ _)

/-- A claim that is granted finds the line below its quota (R78). -/
theorem State.growthAllowed_room {s : State} {n : LineNo} (h : s.growthAllowed n = true) :
    (s.line n).upBlocks < (s.line n).params.quota := by
  simp only [State.growthAllowed, Bool.and_eq_true, decide_eq_true_eq] at h
  exact h.1

theorem State.KeepsBounds.openRecord {s t : State} {n : LineNo} {st : Option Octet} {m : Bool}
    (none : (s.line n).openRec = .none) (h : s.openRecord n st m = some t) : s.KeepsBounds t := by
  unfold State.openRecord at h
  split at h
  · rename_i allowed
    simp only [State.openingAllowed, Bool.and_eq_true] at allowed
    split at h <;> cases h
    exact (State.KeepsBounds.buffer s _).trans (.modLine (.openNew none (State.growthAllowed_room allowed.1) st m _ _))
  · cases h

theorem State.KeepsBounds.growRecord {s t : State} {n : LineNo} {r : UpRecord} (opened : (s.line n).openRec = some r)
    (h : s.growRecord n r = some t) : s.KeepsBounds t := by
  unfold State.growRecord at h
  split at h
  · rename_i allowed
    split at h <;> cases h
    exact (State.KeepsBounds.buffer s _).trans (.modLine (.grow opened (State.growthAllowed_room allowed) _))
  · cases h

theorem State.KeepsBounds.appendChar (s : State) (n : LineNo) (e : StageEntry) : s.KeepsBounds (s.appendChar n e) := by
  unfold State.appendChar
  split
  · exact .refl s
  · rename_i r opened
    have stored := (State.KeepsBounds.buffer s (s.buffer.storeOctet r.chain r.length e.value)).trans
      (.modLine (n := n) (f := fun l => { l with openRec := some (r.append e) }) (.append opened e))
    dsimp only
    split
    · exact stored.trans (.closeRecord _ _ _)
    · exact stored

/-- Taking an item of the stage keeps the bounds. -/
theorem State.KeepsBounds.kept (s : State) (n : LineNo) : KeptByItems (State.KeepsBounds s) n where
  close _ _ h := h.trans (.closeRecord _ _ _)
  clear _ h := h.trans (.clearCont _ _)
  opens _ _ _ _ none h hu := h.trans (.openRecord none hu)
  grow _ _ _ opened h hu := h.trans (.growRecord opened hu)
  append _ _ h := h.trans (.appendChar _ _ _)
  select _ _ _ h := h.trans (.steady _ _)
  ignored _ h := h.trans (.steady _ _)

/-- A stage that holds some of the items it held before keeps its bound. -/
theorem State.KeepsBounds.withStage {s t : State} {n : LineNo} {x : List StageItem} (h : s.KeepsBounds t)
    (part : x.Sublist (s.line n).stage) : s.KeepsBounds (t.modLine n fun l => { l with stage := x }) := by
  refine ⟨fun m => ?_, h.commands, h.responses⟩
  rw [State.modLine_line]
  split
  · rename_i e
    subst e
    exact ⟨(h.lines n).queue, (Line.stageCount_le_of_sublist (l := { t.line n with stage := x }) part).trans,
      (h.lines n).blocks⟩
  · exact h.lines m

theorem State.KeepsBounds.starve (s : State) (n : LineNo) : s.KeepsBounds (s.starve n) :=
  (State.KeepsBounds.closeRecord s n .truncated).trans (.steady _ _)

theorem State.KeepsBounds.drain (s : State) (n : LineNo) : s.KeepsBounds (s.drain n) :=
  State.drain_keeps (P := State.KeepsBounds s) (fun _ => .refl s) (fun _ => .refl s)
    (fun _ _ _ _ h ht => (State.KeepsBounds.kept s n).takeItem h ht) (fun _ h => h.withStage (List.nil_sublist _))
    (fun t _ _ suffix h => (h.trans (.starve t n)).withStage suffix.sublist)

theorem State.KeepsBounds.tryBegin (s : State) (n : LineNo) : s.KeepsBounds (s.tryBegin n) :=
  State.tryBegin_keeps (fun r _ _ _ => (State.KeepsBounds.drain _ _).after (.modLine (.begin r _ _))) (.refl s)

theorem State.KeepsBounds.serve (s : State) (n : LineNo) : s.KeepsBounds (s.serve n) :=
  (State.KeepsBounds.drain _ _).trans (.tryBegin _ _)

theorem State.KeepsBounds.retry (s : State) (n : LineNo) : s.KeepsBounds (s.retry n) :=
  ((State.KeepsBounds.steady s n (f := fun l => { l with starved := false }) fun _ => rfl).trans (.buffer _ _)).trans
    (.serve _ _)

theorem State.KeepsBounds.wakePass (s : State) : s.KeepsBounds s.wakePass :=
  State.wakePass_keeps (P := State.KeepsBounds s) (fun t n h _ _ => h.trans (.retry t n)) (.refl s)

theorem State.KeepsBounds.release (s : State) (chain : List Nat) (desc : Nat) : s.KeepsBounds (s.release chain desc) :=
  (State.KeepsBounds.buffer s _).trans (.wakePass _)

/-- What each of a list's operations keeps, they keep together. -/
theorem State.KeepsBounds.foldl {α : Type} {f : State → α → State} (hf : ∀ s a, State.KeepsBounds s (f s a))
    (as : List α) (s : State) : s.KeepsBounds (as.foldl f s) := by
  induction as generalizing s with
  | nil => exact .refl s
  | cons a as ih => exact (hf s a).trans (ih _)

theorem State.KeepsBounds.quietDrain (s : State) (n : LineNo) : s.KeepsBounds (s.quietDrain n) :=
  ((State.KeepsBounds.drain s n).trans (.turnAway _ _)).trans (.steady _ _)

/-! ### The downstream parsers -/

theorem State.KeepsBounds.setParse (s : State) (p : DownParse) : s.KeepsBounds (s.setParse p) := .aside

theorem State.KeepsBounds.setCmdParse (s : State) (p : CmdParse) : s.KeepsBounds (s.setCmdParse p) :=
  .same

theorem State.KeepsBounds.discardDown (s : State) (d : Discard) (p : DownParse) : s.KeepsBounds (s.discardDown d p) :=
  .same

theorem State.KeepsBounds.discardCommand (s : State) : s.KeepsBounds s.discardCommand :=
  .same

theorem State.KeepsBounds.interruptDown (s : State) (p : DownParse) : s.KeepsBounds (s.interruptDown p) := by
  unfold State.interruptDown
  split
  · exact .setParse _ _
  · exact .setParse _ _
  · exact .setParse _ _
  · exact .discardDown _ _ _
  · exact (State.KeepsBounds.discardDown _ _ _).trans (.release _ _ _)

theorem State.KeepsBounds.interruptCommand (s : State) (p : CmdParse) : s.KeepsBounds (s.interruptCommand p) := by
  obtain ⟨lines, -, -, -, commands⟩ := State.interruptCommand_rest s p
  exact .same lines (by rw [commands]) (by rw [(State.BesideParsers.interruptCommand s p).responses])

theorem State.KeepsBounds.parsersWait (s : State) : s.KeepsBounds s.parsersWait :=
  (State.KeepsBounds.interruptDown _ _).trans (.interruptCommand _ _)

/-- A record joins a downstream queue that has room for it (R112, R116). -/
theorem State.KeepsBounds.enqueue {s : State} {n : LineNo} (room : (s.line n).downQueue.length < Config.downQueueSize)
    (r : DownRecord) : s.KeepsBounds (s.modLine n fun l => { l with downQueue := l.downQueue ++ [r] }) :=
  .modLine ⟨fun _ => by rw [List.length_append]; exact room, id, id⟩

theorem State.KeepsBounds.appendDown (s : State) (r : DownRecord) : s.KeepsBounds (s.appendDown r) := by
  unfold State.appendDown
  split
  · exact (State.KeepsBounds.discardDown _ _ _).trans (.release _ _ _)
  · split
    · exact (State.KeepsBounds.discardDown _ _ _).trans (.release _ _ _)
    · rename_i room
      have queued := State.KeepsBounds.enqueue (s := s.setParse .between) (Nat.not_le.mp room) r
      exact ((State.KeepsBounds.setParse s _).trans queued).trans (.tryBegin _ _)

theorem State.KeepsBounds.storePayload (s : State) (r : DownRecord) (k : Nat) (o : Octet) :
    s.KeepsBounds (s.storePayload r k o) := by
  unfold State.storePayload
  dsimp only
  split
  · exact (State.KeepsBounds.buffer s _).trans (.appendDown _ _)
  · exact (State.KeepsBounds.buffer s _).trans (.setParse _ _)

theorem State.KeepsBounds.feedPayload (s : State) (r : DownRecord) (k : Nat) (o : Octet) :
    s.KeepsBounds (s.feedPayload r k o) := by
  unfold State.feedPayload
  split
  · split
    · exact (State.KeepsBounds.discardDown _ _ _).trans (.release _ _ _)
    · exact (State.KeepsBounds.buffer s _).trans (.storePayload _ _ _ _)
  · exact .storePayload _ _ _ _

theorem State.KeepsBounds.headerComplete (s : State) (k : DownKind) (len : Nat) (station : Octet) :
    s.KeepsBounds (s.headerComplete k len station) := by
  unfold State.headerComplete
  split
  · exact .discardDown _ _ _
  · split
    · exact .discardDown _ _ _
    · dsimp only
      split
      · exact (State.KeepsBounds.buffer s _).trans (.appendDown _ _)
      · exact (State.KeepsBounds.buffer s _).trans (.setParse _ _)

theorem State.KeepsBounds.feedDown (s : State) (o : Octet) : s.KeepsBounds (s.feedDown o) := by
  unfold State.feedDown
  split
  · exact .refl s
  · split
    · exact .refl s
    · split
      · exact .setParse _ _
      · exact .discardDown _ _ _
  · exact .setParse _ _
  · exact .headerComplete _ _ _ _
  · exact .feedPayload _ _ _ _
  · exact .setParse _ _
  · exact .setParse _ _

/-- A command joins a Command Input Buffer that has room for it (R153). -/
theorem State.KeepsBounds.commandComplete (s : State) (c : Command) : s.KeepsBounds (s.commandComplete c) := by
  unfold State.commandComplete
  dsimp only
  split
  · rename_i room
    exact ⟨fun _ => .refl _, fun _ => by rw [List.length_append]; exact room, Nat.le_refl _⟩
  · exact (State.KeepsBounds.setCmdParse _ _).trans (.discardCommand _)

theorem State.KeepsBounds.feedCommand (s : State) (o : Octet) : s.KeepsBounds (s.feedCommand o) := by
  unfold State.feedCommand
  split
  · exact .refl s
  · split
    · exact .refl s
    · exact .setCmdParse _ _
  · exact .setCmdParse _ _
  · split
    · exact .commandComplete _ _
    · split <;> exact .setCmdParse _ _
  · dsimp only
    split
    · exact .commandComplete _ _
    · exact .setCmdParse _ _
  · split
    · exact .commandComplete _ _
    · exact .setCmdParse _ _

theorem State.KeepsBounds.takeSlots (s : State) (octets : List Octet) : s.KeepsBounds (s.takeSlots octets) :=
  (State.KeepsBounds.foldl State.KeepsBounds.feedDown _ _).trans (.feedCommand _ _)

/-! ### The trunk -/

theorem State.KeepsBounds.framer (s : State) (f : Framer) : s.KeepsBounds { s with framer := f } := .aside

theorem State.KeepsBounds.checkStreams (s : State) : s.KeepsBounds s.checkStreams := by
  rw [State.checkStreams_eq]
  split
  · exact (State.KeepsBounds.mapLines s (f := fun l => { l with pos := l.pos.breakOff }) fun l => .of_bounded rfl).trans
      (.aside)
  · exact .refl s

theorem State.KeepsBounds.startFrame (s : State) : s.KeepsBounds s.startFrame := by
  have mgmt : s.startFrame.mgmt = s.mgmt := by rw [State.startFrame_frame]
  exact ⟨fun n => .of_bounded (by rw [State.startFrame_line]; rfl), by rw [mgmt]; exact id, by rw [mgmt]⟩

theorem State.KeepsBounds.sendOctet (s : State) (o : Octet) : s.KeepsBounds (s.sendOctet o) := .framer s _

/-- A record that has been sent leaves the upstream queue with its blocks (R97). -/
theorem State.KeepsBounds.recordSent {s : State} {n : LineNo} {r : UpRecord} {rest : List UpRecord}
    (queue : (s.line n).upQueue = r :: rest) : s.KeepsBounds (s.recordSent n r rest) := by
  refine (State.KeepsBounds.modLine (.of_le (Nat.le_refl _) (Nat.le_refl _) ?_ rfl)).trans (.release _ _ _)
  simp only [Line.upBlocks, queue, List.map_cons, List.sum_cons]
  omega

theorem State.KeepsBounds.lineSlot (s : State) (n : LineNo) : s.KeepsBounds (s.lineSlot n) := by
  unfold State.lineSlot
  split
  · exact (State.KeepsBounds.sendOctet _ _).trans (.steady _ _)
  · rename_i r rest _ queue
    dsimp only
    split
    · exact (State.KeepsBounds.sendOctet _ _).trans (.recordSent queue)
    · exact (State.KeepsBounds.sendOctet _ _).trans (.steady _ _)
  · exact .sendOctet _ _
  · exact .sendOctet _ _
  · exact .sendOctet _ _

theorem State.KeepsBounds.dataSlot (s : State) (k : SlotNo) : s.KeepsBounds (s.dataSlot k) := by
  unfold State.dataSlot
  split
  · exact .sendOctet _ _
  · exact .lineSlot _ _

/-- A line at its reset values holds nothing (R40, R75, R129). -/
theorem Line.KeepsBounds.reset (l : Line) : l.KeepsBounds .reset :=
  ⟨fun _ => Nat.zero_le _, fun _ => Nat.zero_le _, fun _ => Nat.zero_le _⟩

/-- After a full reset nothing is queued (R40, R129, R168). -/
theorem State.KeepsBounds.of_reset {s t : State} (lines : t.lines = State.reset.lines) (commands : t.mgmt.cib = [])
    (responses : t.mgmt.responses = []) : s.KeepsBounds t := by
  refine ⟨fun n => ?_, fun _ => by rw [commands]; exact Nat.zero_le _, by rw [responses]; exact Nat.zero_le _⟩
  have line : t.line n = .reset := by rw [← reset_line n, State.line, State.line, lines]
  exact line ▸ .reset _

theorem State.KeepsBounds.fullReset (s : State) (c : Cause) : s.KeepsBounds (s.fullReset c) := .of_reset rfl rfl rfl

theorem State.KeepsBounds.beginQuiet (s : State) : s.KeepsBounds s.beginQuiet :=
  ((State.KeepsBounds.framer s _).trans (.parsersWait _)).trans (.checkStreams _)

/-- A response that has been sent leaves the Response Queue (R101). -/
theorem State.KeepsBounds.responseEnd {s : State} {r : Response} {rest : List Response}
    (queue : s.mgmt.responses = r :: rest) : s.KeepsBounds (s.responseEnd r rest) := by
  have left : s.KeepsBounds
      { s with mgmt := { s.mgmt with responses := rest }, serializer := { s.serializer with mgmtPos := .idle } } :=
    .same (responses := by simp [queue])
  unfold State.responseEnd
  dsimp only
  split
  · exact left
  · exact left.trans (.fullReset _ _)
  · exact left.trans (.beginQuiet _)
  · split
    · exact left.trans (.aside)
    · exact left

theorem State.KeepsBounds.managementSlot (s : State) : s.KeepsBounds s.managementSlot := by
  unfold State.managementSlot
  split
  · exact .sendOctet _ _
  · rename_i r rest running
    have queue : s.mgmt.responses = r :: rest := by
      split at running
      · exact running
      · cases running
    split
    · exact .aside
    · dsimp only
      split
      · exact (State.KeepsBounds.sendOctet s _).trans (.responseEnd queue)
      · exact .aside
    · exact .sendOctet _ _

theorem State.KeepsBounds.restartEvent (s : State) : s.KeepsBounds s.restartEvent :=
  ((State.KeepsBounds.framer s _).trans (.interruptDown _ _)).trans (.interruptCommand _ _)

theorem State.KeepsBounds.deliver (s : State) (octets : List Octet) : s.KeepsBounds (s.deliver octets) := by
  rw [State.deliver_eq]
  split
  · exact (State.KeepsBounds.restartEvent s).trans (.takeSlots _ _)
  · exact .takeSlots _ _

theorem State.KeepsBounds.loseAlignment (s : State) : s.KeepsBounds s.loseAlignment :=
  (State.KeepsBounds.framer s _).trans (.raise _ _)

theorem State.KeepsBounds.frameInSearch (s : State) (octets : List Octet) : s.KeepsBounds (s.frameInSearch octets) := by
  unfold State.frameInSearch
  split <;> exact .framer s _

theorem State.KeepsBounds.frameInConfirm (s : State) (octets : List Octet) : s.KeepsBounds (s.frameInConfirm octets) := by
  unfold State.frameInConfirm
  split <;> exact .framer s _

theorem State.KeepsBounds.frameInAligned (s : State) (octets : List Octet) : s.KeepsBounds (s.frameInAligned octets) := by
  unfold State.frameInAligned
  split
  · dsimp only
    split
    · exact ((State.KeepsBounds.framer s _).trans (.parsersWait _)).trans (.deliver _ _)
    · exact .framer s _
  · dsimp only
    split
    · exact (State.KeepsBounds.framer s _).trans (.loseAlignment _)
    · exact .framer s _

theorem State.KeepsBounds.frameInOperational (s : State) (octets : List Octet) :
    s.KeepsBounds (s.frameInOperational octets) := by
  unfold State.frameInOperational
  split
  · dsimp only
    split
    · exact ((State.KeepsBounds.framer s _).trans (.checkStreams _)).trans (.deliver _ _)
    · exact (((State.KeepsBounds.framer s _).trans (.raise _ _)).trans (.parsersWait _)).trans (.checkStreams _)
  · dsimp only
    split
    · exact (((State.KeepsBounds.framer s _).trans (.parsersWait _)).trans (.loseAlignment _)).trans (.checkStreams _)
    · exact (State.KeepsBounds.framer s _).trans (.parsersWait _)

theorem State.KeepsBounds.judgeFrame (s : State) (octets : List Octet) : s.KeepsBounds (s.judgeFrame octets) := by
  unfold State.judgeFrame
  split
  · exact .frameInSearch s octets
  · exact .frameInConfirm s octets
  · exact .frameInAligned s octets
  · exact .frameInOperational s octets
  · exact .refl s

theorem State.KeepsBounds.searchBit (s : State) (b : Bool) : s.KeepsBounds (s.searchBit b) := by
  unfold State.searchBit
  dsimp only
  split
  · exact .framer s _
  · split
    · exact (State.KeepsBounds.framer s _).trans (.judgeFrame _ _)
    · exact .framer s _

theorem State.KeepsBounds.alignedBit (s : State) (b : Bool) : s.KeepsBounds (s.alignedBit b) := by
  unfold State.alignedBit
  dsimp only
  split
  · exact (State.KeepsBounds.framer s _).trans (.judgeFrame _ _)
  · exact .framer s _

theorem State.KeepsBounds.takeBit (s : State) (b : Bool) : s.KeepsBounds (s.takeBit b) := by
  unfold State.takeBit
  dsimp only
  split
  · exact (State.KeepsBounds.framer s _).trans (.searchBit _ _)
  · exact (State.KeepsBounds.framer s _).trans (.alignedBit _ _)
  · exact (State.KeepsBounds.framer s _).trans (.alignedBit _ _)
  · exact (State.KeepsBounds.framer s _).trans (.alignedBit _ _)
  · exact .refl s

/-! ### Line events, grants and wakes -/

/-- A row whose event cannot arise changes nothing, so only its effect matters (log 1). -/
theorem State.KeepsBounds.guarded {s t : State} {p : Prop} [Decidable p] (h : p → s.KeepsBounds t) :
    s.KeepsBounds (if p then t else s) := by
  split
  · rename_i hp; exact h hp
  · exact .refl s

theorem Line.charEnded_bounded (brk : Bool) (l : Line) : (l.charEnded brk).bounded = l.bounded := by
  unfold Line.charEnded
  split <;> rfl

/-- A character is staged only while the stage holds fewer than 4 (R28). -/
theorem Line.KeepsBounds.staged {l : Line} (room : l.stageCount < Config.stageSize) (e : StageEntry) :
    l.KeepsBounds { l with stage := l.stage ++ [.char e] } := by
  have one : ({ l with stage := l.stage ++ [.char e] } : Line).stageCount = l.stageCount + 1 := by
    simp [Line.stageCount_eq, StageItem.isMarker]
  exact ⟨id, fun _ => one ▸ room, id⟩

theorem Line.charEnded_stage (brk : Bool) (l : Line) : (l.charEnded brk).stage = l.stage := by
  unfold Line.charEnded
  split <;> rfl

theorem State.KeepsBounds.stageChar {s : State} {n : LineNo} (room : (s.line n).stageCount < Config.stageSize)
    (e : StageEntry) : s.KeepsBounds (s.stageChar n e) :=
  (State.KeepsBounds.serve _ _).after (.modLine ((Line.KeepsBounds.staged room _).trans (.of_bounded rfl)))

theorem State.KeepsBounds.completeChar (s : State) (n : LineNo) (samples : BitVec 11) :
    s.KeepsBounds (s.completeChar n samples) := by
  have ended : ∀ brk, s.KeepsBounds (s.modLine n (Line.charEnded brk)) := fun brk =>
    .steady s n (Line.charEnded_bounded brk)
  unfold State.completeChar
  dsimp only
  split
  · exact ended _
  · split
    · rename_i room
      refine (State.KeepsBounds.stageChar ?_ _).after (ended _)
      rwa [State.modLine_line_self, Line.stageCount, Line.charEnded_stage]
    · exact (State.KeepsBounds.raise _ _).after ((State.KeepsBounds.steady _ _).after (ended _))

theorem State.KeepsBounds.gapExpires (s : State) (n : LineNo) : s.KeepsBounds (s.gapExpires n) :=
  (State.KeepsBounds.tryBegin _ _).after ((State.KeepsBounds.steady _ _).after (.turnAway s n))

/-- An empty stage is within its bound. -/
theorem Line.KeepsBounds.emptied (l : Line) : l.KeepsBounds { l with stage := [] } := ⟨id, fun _ => Nat.zero_le _, id⟩

theorem State.KeepsBounds.receiverOn (s : State) (n : LineNo) : s.KeepsBounds (s.receiverOn n) :=
  .guarded fun _ => .modLine ((Line.KeepsBounds.emptied _).trans (.of_bounded rfl))

theorem State.KeepsBounds.receiverOff (s : State) (n : LineNo) : s.KeepsBounds (s.receiverOff n) := by
  have off : s.KeepsBounds (s.modLine n Line.switchOff) :=
    .modLine ((Line.KeepsBounds.emptied _).trans (.of_bounded rfl))
  unfold State.receiverOff
  split
  · exact .refl s
  · exact (State.KeepsBounds.tryBegin _ _).after
      ((State.KeepsBounds.steady _ _).after ((off.trans (.closeRecord _ _ _)).trans (.clearCont _ _)))

/-- A downstream queue that loses records keeps its bound. -/
theorem Line.KeepsBounds.shorter {l : Line} {q : List DownRecord} (h : q.length ≤ l.downQueue.length) :
    l.KeepsBounds { l with downQueue := q } := ⟨h.trans, id, id⟩

theorem State.KeepsBounds.recordEnd {s : State} {n : LineNo} {r : DownRecord} {rest : List DownRecord}
    (queue : (s.line n).downQueue = r :: rest) : s.KeepsBounds (s.recordEnd n r rest) := by
  have ended : s.KeepsBounds (s.modLine n (Line.elementEnded rest)) :=
    .modLine ((Line.KeepsBounds.shorter (q := rest) (by simp [queue])).trans (.of_bounded rfl))
  have released := ended.trans (.release _ r.chain r.desc)
  unfold State.recordEnd
  dsimp only
  split
  · exact released.trans (.steady _ _)
  · exact (released.trans (.steady _ _ Line.settleDrain_bounded)).trans (.pollEnd _ _ _)

/-- The NO_REPLY record holds no block (R68). -/
theorem State.KeepsBounds.noReply (s : State) (n : LineNo) (w : ReplyWait) : s.KeepsBounds (s.noReply n w) := by
  unfold State.noReply
  split
  · exact .raise _ _
  · exact (State.KeepsBounds.modLine
      (.of_le (Nat.le_refl _) (Nat.le_refl _) (by simp [Line.upBlocks, noReplyRecord]) rfl)).after (.buffer s _)

theorem Line.waitExpired_bounded (w : ReplyWait) (l : Line) : (l.waitExpired w).bounded = l.bounded :=
  Line.settleDrain_bounded _

theorem State.KeepsBounds.replyExpires (s : State) (n : LineNo) (w : ReplyWait) : s.KeepsBounds (s.replyExpires n w) :=
  (State.KeepsBounds.tryBegin _ _).after ((State.KeepsBounds.pollEnd _ _ _).after
    ((State.KeepsBounds.steady _ _ (Line.waitExpired_bounded w)).after (.noReply s n w)))

theorem State.KeepsBounds.transmitterOn (s : State) (n : LineNo) : s.KeepsBounds (s.transmitterOn n) :=
  (State.KeepsBounds.tryBegin _ _).after (.steady _ _)

theorem State.KeepsBounds.transmitterOff (s : State) (n : LineNo) : s.KeepsBounds (s.transmitterOff n) :=
  .steady s n fun l => by
    split
    · exact Line.settleDrain_bounded _
    · rfl
    · rfl

theorem Line.flushKept_length (l : Line) : l.flushKept.length ≤ l.downQueue.length := by
  unfold Line.flushKept
  split
  · exact List.length_take_le' _ _
  · exact Nat.zero_le _

theorem State.KeepsBounds.flush (s : State) (n : LineNo) : s.KeepsBounds (s.flush n) := by
  have cut : s.KeepsBounds (s.modLine n fun l => { l with downQueue := l.flushKept }) :=
    .modLine (.shorter (s.line n).flushKept_length)
  unfold State.flush
  split
  · exact .refl s
  · exact (State.KeepsBounds.steady _ _ Line.settleDrain_bounded).after
      ((State.KeepsBounds.foldl (fun u (x : DownRecord) => .pollEnd u x.channel .abandoned) _ _).after
        ((cut.trans (.buffer _ _)).trans (.wakePass _)))

/-- The record of a grant joins a queue that has room for it (R141, R145). -/
theorem State.KeepsBounds.makePollRecord {s : State} {c : ChannelNo} {e : Script} {st : Station}
    (room : (s.line st.line).downQueue.length < Config.downQueueSize) : s.KeepsBounds (s.makePollRecord c e st) := by
  unfold State.makePollRecord
  split
  · exact .refl s
  · rename_i d k b _
    have queued := (State.KeepsBounds.enqueue (s := { s with buffer := b.storeAll [k] 0 e.payload }) room
      (pollRecord c e st d k)).after (.buffer s _)
    refine ((State.KeepsBounds.tryBegin _ _).after (.modChan _ _ _)).after ?_
    split
    · exact (State.KeepsBounds.raise _ _).after queued
    · exact queued

/-- The arbiter's choice is an eligible channel (R142). -/
theorem State.choice_eligible {s : State} {c : ChannelNo} (h : s.choice = some c) : s.eligible c = true :=
  List.find?_some h

/-- The line of an eligible channel has room for a record (R141). -/
theorem State.eligible_room {s : State} {c : ChannelNo} (h : s.eligible c = true) :
    (s.line (s.chan c).settings.target).downQueue.length < Config.downQueueSize := by
  simp only [State.eligible, Bool.and_eq_true, decide_eq_true_eq] at h
  exact h.1.1.1.2

theorem State.KeepsBounds.grant {s : State} {c : ChannelNo} (h : s.eligible c = true) : s.KeepsBounds (s.grant c) := by
  unfold State.grant
  dsimp only
  split
  · exact ((State.KeepsBounds.raise _ _).after (.modChan _ _ _)).after (.aside)
  · rename_i st granted
    rw [State.grantStation_eq] at granted
    split at granted <;> cases granted
    rename_i check
    refine (State.KeepsBounds.makePollRecord ?_).after (.aside)
    rw [check.2.2]
    exact State.eligible_room h

theorem Line.woken_bounded (l : Line) : l.woken.bounded = l.bounded := by
  unfold Line.woken
  dsimp only
  split <;> rfl

theorem State.KeepsBounds.wake (s : State) (source : WakeSource) : s.KeepsBounds (s.wake source) := by
  have woken := State.KeepsBounds.mapLines s (f := Line.woken) fun l => .of_bounded l.woken_bounded
  unfold State.wake
  exact (State.KeepsBounds.foldl State.KeepsBounds.tryBegin allLines _).after
    (woken.trans (.same))

theorem Line.toWatch_bounded (l : Line) : l.toWatch.bounded = l.bounded := by
  unfold Line.toWatch
  split <;> rfl

theorem State.KeepsBounds.tick (s : State) : s.KeepsBounds s.tick :=
  .guarded fun _ =>
    (State.KeepsBounds.aside).after (.mapLines s (f := Line.tick) fun _ => .of_bounded rfl)

/-! ### Management commands -/

/-- Of the two laws of the sizes, each that holds in `s` holds in `t` (R28, R82, R116, R153, R158). -/
structure State.UpholdsBounds (s t : State) : Prop where
  queues : s.QueuesBounded → t.QueuesBounded
  quotas : s.QuotasKept → t.QuotasKept

theorem State.UpholdsBounds.refl (s : State) : s.UpholdsBounds s := ⟨id, id⟩

theorem State.UpholdsBounds.trans {s t u : State} (h : s.UpholdsBounds t) (k : t.UpholdsBounds u) :
    s.UpholdsBounds u := ⟨k.queues ∘ h.queues, k.quotas ∘ h.quotas⟩

theorem State.KeepsBounds.upholds {s t : State} (h : s.KeepsBounds t) : s.UpholdsBounds t where
  queues hs := by
    obtain ⟨lines, commands, responses⟩ := hs
    exact ⟨fun n => ⟨(h.lines n).queue (lines n).1, (h.lines n).stage (lines n).2⟩, h.commands commands,
      h.responses.trans responses⟩
  quotas hs n := (h.lines n).blocks (hs n)

/-- The execution of a command adds one response, and only while the Response Queue has room for it (R155, R158). -/
theorem State.UpholdsBounds.execute {judge : Command → State → Judged}
    (h : ∀ c s, State.KeepsBounds s (judge c s).state) (s : State) (names : Command → Bool) :
    s.UpholdsBounds (s.execute names judge) := by
  unfold State.execute
  split
  · exact .refl s
  · rename_i c rest buffer
    split
    · rename_i due
      have room : s.mgmt.responses.length < Config.responseQueueSize := by
        simp only [Mgmt.mayExecute, Bool.and_eq_true, decide_eq_true_eq] at due
        exact due.2.1
      have judged : s.KeepsBounds (judge c { s with mgmt := { s.mgmt with cib := rest } }).state :=
        (h c _).after (.same (commands := by simp [buffer]))
      generalize judge c { s with mgmt := { s.mgmt with cib := rest } } = j at judged ⊢
      obtain ⟨t, reply⟩ := j
      cases reply with
      | none => exact (judged.trans .aside).upholds
      | some answer =>
        refine ⟨fun hs => ?_, fun hs n => (judged.lines n).blocks (hs n)⟩
        obtain ⟨lines, commands, -⟩ := judged.upholds.queues hs
        refine ⟨lines, commands, ?_⟩
        show (t.mgmt.responses ++ [_]).length ≤ _
        rw [List.length_append]
        exact Nat.lt_of_le_of_lt judged.responses room
    · exact .refl s

/-- New parameters on a line that holds no upstream record (R22). -/
theorem Line.KeepsBounds.setParams {l : Line} (idle : l.inUse = false) (p : LineParams) :
    l.KeepsBounds { l with params := p } := by
  simp only [Line.inUse, Bool.or_eq_false_iff, Option.isSome_eq_false_iff, Option.isNone_iff_eq_none,
    Bool.not_eq_false', List.isEmpty_iff] at idle
  obtain ⟨⟨-, opened⟩, closed⟩ := idle
  refine ⟨id, id, fun _ => ?_⟩
  simp [Line.upBlocks, opened, closed]

theorem judgeSetLine_keepsBounds (c : Command) (s : State) : s.KeepsBounds (judgeSetLine c s).state := by
  unfold judgeSetLine
  split
  · split
    · split
      · exact .refl s
      · rename_i idle
        refine .modLine (f := fun l => { l with params := _ }) (.setParams ?_ _)
        exact Bool.eq_false_of_not_eq_true idle
    · exact .refl s
    · exact .refl s
  · exact .refl s

theorem State.KeepsBounds.clearCounters (s : State) (g : CounterGroup) : s.KeepsBounds (s.clearCounters g) := by
  cases g with
  | line n => exact .steady s n (f := fun l => { l with counters := .zero })
  | trunk => exact .aside
  | discards => exact .aside
  | management => exact .same

theorem judgeReadCounters_keepsBounds (c : Command) (s : State) : s.KeepsBounds (judgeReadCounters c s).state := by
  unfold judgeReadCounters
  split
  · split
    · exact .guarded fun _ => .clearCounters s _
    · exact .refl s
    · exact .refl s
  · exact .refl s

theorem judgeReset_keepsBounds (sc : Scope) {effect : State → Judged} (h : ∀ s, State.KeepsBounds s (effect s).state)
    (c : Command) (s : State) : s.KeepsBounds (judgeReset sc effect c s).state := by
  unfold judgeReset
  split
  · split
    · exact h s
    · exact .refl s
  · exact .refl s

theorem deviceReset_keepsBounds (s : State) : s.KeepsBounds (deviceReset s).state := by
  unfold deviceReset
  split
  · exact .same
  · exact .fullReset _ _

theorem Line.KeepsBounds.linesReset (l : Line) : l.KeepsBounds l.linesReset :=
  ⟨fun _ => Nat.zero_le _, fun _ => Nat.zero_le _, fun _ => Nat.zero_le _⟩

theorem State.keptResponses_length (s : State) : s.keptResponses.length ≤ s.mgmt.responses.length := by
  unfold State.keptResponses
  split
  · rw [List.length_map]
    exact List.length_take_le' _ _
  · exact Nat.zero_le _
  · exact Nat.zero_le _

/-- The interruption of the Downstream Parser at a LINES-scope reset leaves the lines alone (R114). -/
theorem State.linesResetParser_lines (s : State) : s.linesResetParser.lines = s.lines := by
  unfold State.linesResetParser
  split <;> rfl

theorem State.KeepsBounds.linesReset (s : State) : s.KeepsBounds s.linesReset := by
  refine ⟨fun n => ?_, fun _ => Nat.zero_le _, s.keptResponses_length⟩
  have line : s.linesReset.line n = (s.line n).linesReset := by
    rw [← State.mapLines_line s Line.linesReset n]
    exact congrArg (fun v : Vector Line 8 => v[n]) (State.linesResetParser_lines _)
  exact line ▸ .linesReset _

theorem State.KeepsBounds.countersReset (s : State) : s.KeepsBounds s.countersReset :=
  (State.KeepsBounds.mapLines s (f := fun l => { l with counters := .zero }) fun _ => .of_bounded rfl).trans .same

theorem judgeEnterQuiet_keepsBounds (c : Command) (s : State) : s.KeepsBounds (judgeEnterQuiet c s).state := by
  unfold judgeEnterQuiet
  split
  · split
    · exact .refl s
    · split
      · exact .refl s
      · exact (State.KeepsBounds.mapLines s (f := fun l => { l with quietHold := true }) fun _ => .of_bounded rfl).trans
          .same
  · exact .refl s

theorem judgeLineControl_keepsBounds (c : Command) (s : State) : s.KeepsBounds (judgeLineControl c s).state := by
  have receiver : ∀ (u : State) (n : LineNo) (a : SwitchAction), u.KeepsBounds (u.receiverAction n a) := by
    intro u n a
    cases a with
    | none => exact .refl u
    | on => exact .receiverOn u n
    | off => exact .receiverOff u n
  have transmitter : ∀ (u : State) (n : LineNo) (a : SwitchAction), u.KeepsBounds (u.transmitterAction n a) := by
    intro u n a
    cases a with
    | none => exact .refl u
    | on => exact .transmitterOn u n
    | off => exact .transmitterOff u n
  unfold judgeLineControl
  split
  · split
    · rename_i n rx tx fl _ _ _ _
      refine ((receiver s n rx).trans (transmitter _ n tx)).trans ?_
      cases fl with
      | false => exact .refl _
      | true => exact .flush _ _
    · exact .refl s
  · exact .refl s

theorem judgePollControl_keepsBounds (a : PollAction) {effect : ChannelNo → State → Judged}
    (h : ∀ k s, State.KeepsBounds s (effect k s).state) (c : Command) (s : State) :
    s.KeepsBounds (judgePollControl a effect c s).state := by
  unfold judgePollControl
  split
  · split
    · exact .refl s
    · split
      · exact h _ s
      · exact .refl s
  · exact .refl s

/-- The commands that act neither on a line nor on the Management Unit's queues. -/
def asideJudges : List (Command → State → Judged) :=
  [judgeReadIdent, judgeReadEvents, judgeSetSupervision, judgeReadBuffer, judgeReadLine, judgeWriteStation,
    judgeInvalidateStation, judgeReadStation, judgeWriteSlot, judgeReadSlot, judgeSwapBanks, judgeWriteScript,
    judgeReadScript, judgeSetChannel, judgeReadChannel, judgeSetArbitration]

theorem asideJudges_keepBounds {judge : Command → State → Judged} (h : judge ∈ asideJudges) (c : Command) (s : State) :
    s.KeepsBounds (judge c s).state := by
  suffices same : (judge c s).state.lines = s.lines ∧ (judge c s).state.mgmt.cib = s.mgmt.cib ∧
      (judge c s).state.mgmt.responses = s.mgmt.responses from
    .same same.1 (Nat.le_of_eq (congrArg _ same.2.1)) (Nat.le_of_eq (congrArg _ same.2.2))
  simp only [asideJudges, List.mem_cons, List.not_mem_nil, or_false] at h
  rcases h with rfl | rfl | rfl | rfl | rfl | rfl | rfl | rfl | rfl | rfl | rfl | rfl | rfl | rfl | rfl | rfl
  all_goals
    simp only [judgeReadIdent, judgeReadEvents, judgeSetSupervision, judgeReadBuffer, judgeReadLine, judgeWriteStation,
      judgeInvalidateStation, judgeReadStation, judgeWriteSlot, judgeReadSlot, judgeSwapBanks, judgeWriteScript,
      judgeReadScript, judgeSetChannel, judgeReadChannel, judgeSetArbitration]
    repeat' split
    all_goals exact ⟨rfl, rfl, rfl⟩

/-! ### Rows -/

/-- Every row goes on to a next state, and upholds the two laws. -/
theorem exec_upholdsBounds (i : Instr) (s : State) : ∃ t, exec i s = .next t ∧ s.UpholdsBounds t := by
  have kept {t : State} (h : s.KeepsBounds t) :
      ∃ u, (.next t : Host.Outcome State Fault Refusal) = .next u ∧ s.UpholdsBounds u := ⟨_, rfl, h.upholds⟩
  have executed {judge : Command → State → Judged} {names : Command → Bool}
      (h : ∀ c u, State.KeepsBounds u (judge c u).state) :
      ∃ u, (.next (s.execute names judge) : Host.Outcome State Fault Refusal) = .next u ∧ s.UpholdsBounds u :=
    ⟨_, rfl, .execute h s _⟩
  cases i with
  | upstreamFrameStart => exact kept (.guarded fun _ => .startFrame s)
  | upstreamDataSlot =>
    refine kept ?_
    split
    · exact .dataSlot s _
    · exact .refl s
  | managementSlot => exact kept (.guarded fun _ => .managementSlot s)
  | quietEntry =>
    refine kept (.guarded fun _ => ?_)
    exact (State.KeepsBounds.foldl State.KeepsBounds.quietDrain allLines _).after
      ((State.KeepsBounds.mapLines _ fun l => .of_bounded l.toWatch_bounded).after .aside)
  | downstreamFrameJudged bits octets => exact kept (.guarded fun _ => .foldl State.KeepsBounds.takeBit _ s)
  | characterComplete n samples => exact kept (.guarded fun _ => .completeChar s n samples)
  | breakHoldEnd n => exact kept (.guarded fun _ => .steady s n)
  | settleEnd n => exact kept (.guarded fun _ => .steady s n)
  | gapExpiry n => exact kept (.guarded fun _ => .gapExpires s n)
  | replyTimeout n =>
    refine kept ?_
    split
    · exact .refl s
    · exact .guarded fun _ => .replyExpires s n _
  | transmitRestEnd n => exact kept (.guarded fun _ => (State.KeepsBounds.tryBegin _ n).after (.steady s n))
  | transmitRecordEnd n =>
    refine kept (.guarded fun _ => ?_)
    split
    · exact .refl s
    · rename_i queue; exact .recordEnd queue
  | pollIntervalExpiry c => exact kept (.guarded fun _ => .modChan s c _)
  | pollGrant =>
    refine kept ?_
    split
    · exact .refl s
    · rename_i choice; exact .grant (State.choice_eligible choice)
  | supervisionExpiry =>
    refine kept (.guarded fun _ => ?_)
    split
    · exact (State.KeepsBounds.raise _ _).after .aside
    · exact .fullReset s _
  | powerOnReset => exact kept (.of_reset rfl rfl rfl)
  | pinReset =>
    refine kept ?_
    split
    · exact .refl s
    · exact .of_reset rfl rfl rfl
  | resetEnd =>
    refine kept ?_
    split
    · exact .refl s
    · exact .of_reset rfl rfl rfl
    · exact .of_reset rfl rfl rfl
  | trunkWake => exact kept (.guarded fun _ => .wake s _)
  | lineWake n => exact kept (.guarded fun _ => .wake s _)
  | startEdge n => exact kept (.guarded fun _ => .steady s n)
  | startBitSample n level => exact kept (.guarded fun _ => .steady s n)
  | lineLowInWait n => exact kept (.guarded fun _ => .steady s n)
  | readCounters => exact executed judgeReadCounters_keepsBounds
  | resetDevice => exact executed (judgeReset_keepsBounds .device deviceReset_keepsBounds)
  | resetLines => exact executed (judgeReset_keepsBounds .lines .linesReset)
  | resetCounters => exact executed (judgeReset_keepsBounds .counters .countersReset)
  | enterQuiet => exact executed judgeEnterQuiet_keepsBounds
  | setLine => exact executed judgeSetLine_keepsBounds
  | arm => exact executed (judgePollControl_keepsBounds .arm fun k u => .modChan u k _)
  | mask => exact executed (judgePollControl_keepsBounds .mask fun k u => .modChan u k _)
  | pollNow =>
    refine executed (judgePollControl_keepsBounds .pollNow fun k u => ?_)
    split
    · exact .refl u
    · exact .modChan u k _
  | lineControl | receiverOn | receiverOff | transmitterOn | transmitterOff | flush =>
    exact executed judgeLineControl_keepsBounds
  | unknownCommand | overlengthCommand => exact executed fun _ u => .refl u
  | readIdent | readEvents | setSupervision | readBuffer | readLine | writeStation | invalidateStation | readStation
  | writeSlot | readSlot | swapBanks | writeScript | readScript | setChannel | readChannel | setArbitration =>
    exact executed (asideJudges_keepBounds (by simp [asideJudges]))

/-- Every step upholds the two laws. -/
theorem step_upholdsBounds {s t : State} (h : step s = .next t) : s.UpholdsBounds t := by
  refine step_keeps (P := State.UpholdsBounds s) (fun u _ hu => hu.trans (State.KeepsBounds.aside).upholds)
    (fun i u v hu hv => ?_) (fun u hu => hu.trans (State.KeepsBounds.tick u).upholds) (.refl s) h
  obtain ⟨w, hw, k⟩ := exec_upholdsBounds i u
  rw [hw] at hv
  cases hv
  exact hu.trans k

/-- Settles O55, by `step_upholdsBounds`: a queue grows only where its room has been checked, and an upstream record
only by a claim that the quota grants. -/
theorem stepKeepsQueuesAndQuotas : Obligations.StepKeepsQueuesAndQuotas :=
  ⟨fun _ _ h hs => (step_upholdsBounds hs).queues h, fun _ _ h hs => (step_upholdsBounds hs).quotas h⟩

end Sys2Proof.Machine
end

section
/-! SUPPORT. The line's own events: the receiver's moves and the one-bit rest (O18), a character that completes (O20), and a transmitter that begins its head record (O27). -/

namespace Sys2Proof.Machine

/-! ### The receiver's moves -/

/-- A low line begins the wait of BREAK_HOLD or of SETTLE again, in full (R27, R38). -/
theorem exec_lineLowInWait (s : State) (n : LineNo) :
    exec (.lineLowInWait n) s =
      .next
        (if (s.line n).rx = .breakHold then s.modLine n fun l => { l with highWait := some 1 }
        else if (s.line n).rx = .settle then s.modLine n fun l => { l with highWait := some l.params.charBits }
        else s) := by
  have row : exec (.lineLowInWait n) s =
      .next (if (s.line n).rx = .breakHold ∨ (s.line n).rx = .settle then
        s.modLine n fun l => { l with highWait := l.fullWait } else s) := rfl
  rw [row]
  by_cases hold : (s.line n).rx = .breakHold
  · rw [if_pos (.inl hold), if_pos hold]
    exact congrArg _ (State.modLine_congr s n (by simp only [Line.fullWait, hold]))
  · by_cases settle : (s.line n).rx = .settle
    · rw [if_pos (.inr settle), if_neg hold, if_pos settle]
      exact congrArg _ (State.modLine_congr s n (by simp only [Line.fullWait, settle]))
    · rw [if_neg (not_or.mpr ⟨hold, settle⟩), if_neg hold, if_neg settle]

/-- Settles O18: the rows are their meanings, and `exec_lineLowInWait` says which wait begins again. -/
theorem receiverAndRestMoves : Obligations.ReceiverAndRestMoves :=
  ⟨fun s n => ⟨rfl, rfl, rfl, rfl, rfl, exec_lineLowInWait s n⟩, fun _ _ => rfl⟩

/-! ### A character that completes -/

/-- A character is staged with its counts and a reloaded gap timer, and the line is served (R28, R55, R58). -/
theorem State.stageChar_eq (s : State) (n : LineNo) (e : StageEntry) :
    s.stageChar n e =
      (s.modLine n fun l =>
          { l with
            stage := l.stage ++ [.char { e with overrunBefore := l.overrunPending }]
            overrunPending := false
            gapTimer := if l.gapTimer.isSome then some l.params.gap else none
            counters := l.counters.staged e }).serve n := by
  unfold State.stageChar
  congr 1
  exact State.modLine_congr s n (by cases (s.line n).gapTimer <;> rfl)

/-- The receiver's move at the end of a character changes its state and its wait alone (R26). -/
theorem Line.charEnded_eq (brk : Bool) (l : Line) :
    l.charEnded brk =
      { l with
        rx := if brk = true then .breakHold else .hunt
        highWait := if brk = true then some 1 else l.highWait } := by
  cases brk <;> rfl

/-- Settles O20: the three fates of a character, each with the receiver's move at its end. -/
theorem characterIsDiscardedStagedOrLost : Obligations.CharacterIsDiscardedStagedOrLost := by
  refine ⟨fun _ _ => rfl, fun s n samples receiving => ?_⟩
  intro e ended
  have row : exec (.characterComplete n samples) s =
      .next (if (s.line n).rx = .receiving then s.completeChar n samples else s) := rfl
  have move : ended = fun l =>
      { l with
        rx := if e.brk = true then .breakHold else .hunt
        highWait := if e.brk = true then some 1 else l.highWait } := funext (Line.charEnded_eq e.brk)
  have echo : ((s.line n).params.echo && (s.line n).sending) = true ↔
      (s.line n).params.echo = true ∧ (s.line n).sending = true := Bool.and_eq_true_iff
  have here : Line.charEnded e.brk = ended := rfl
  rw [row, if_pos receiving, State.completeChar, here]
  simp only [echo]
  refine congrArg _ (if_congr Iff.rfl rfl (if_congr Iff.rfl ?_ ?_))
  · rw [State.stageChar_eq, State.modLine_modLine, move]
    rfl
  · rw [State.loseChar, State.modLine_modLine, move]
    rfl

/-! ### The beginning of a record -/

/-- The conditions of R117. -/
theorem Line.mayBegin_iff (l : Line) :
    l.mayBegin = true ↔
      l.txMode ≠ .off ∧ l.sending = false ∧ l.wait = none ∧ l.quietHold = false ∧ l.resting = false := by
  simp [Line.mayBegin, and_assoc]

/-- A transmitter that may begin sends its head record, and the stage is taken behind its marker (R117). -/
theorem State.tryBegin_begins {s : State} {n : LineNo} {r : DownRecord} {rest : List DownRecord}
    (queue : (s.line n).downQueue = r :: rest) (may : (s.line n).mayBegin = true) :
    s.tryBegin n = (s.modLine n (Line.begin r (s.buffer.payload r.chain r.length))).drain n := by
  simp only [State.tryBegin, queue, may, if_true]

theorem Line.beginMarker_eq (l : Line) (r : DownRecord) :
    l.beginMarker r =
      if l.rx = .off then [] else if l.params.addressMark = true then [.txSelect r.localAddr] else [.txBoundary] := by
  simp only [Line.beginMarker, beq_iff_eq]

/-- Settles O27: what does not begin by `State.tryBegin_idle`, and what begins by `State.tryBegin_begins`. -/
theorem transmitterBeginsItsHeadRecord : Obligations.TransmitterBeginsItsHeadRecord := by
  intro s n l
  have empty (queue : l.downQueue = []) : s.tryBegin n = s := State.tryBegin_idle (.inl queue)
  refine ⟨empty, fun busy => ?_, fun r rest queue on sending wait hold resting => ?_⟩
  · refine State.tryBegin_idle (.inr (Bool.eq_false_of_not_eq_true fun may => ?_))
    obtain ⟨on, sending, wait, hold, resting⟩ := (Line.mayBegin_iff _).mp may
    rcases busy with h | h | h | h | h
    · exact on h
    · exact absurd (sending.symm.trans h) Bool.false_ne_true
    · exact absurd (wait ▸ h) (by simp)
    · exact absurd (hold.symm.trans h) Bool.false_ne_true
    · exact absurd (resting.symm.trans h) Bool.false_ne_true
  · intro levels marker
    rw [State.tryBegin_begins queue ((Line.mayBegin_iff _).mpr ⟨on, sending, wait, hold, resting⟩)]
    congr 1
    refine State.modLine_congr s n ?_
    rw [Line.begin, Line.beginMarker_eq]
    rfl

end Sys2Proof.Machine
end

section
/-! SUPPORT. The line commands: Set Line and Read Line (O30), the receiver's and the transmitter's switch and the flush (O31, O32), Line Control as a whole (O33), and the refusals of values out of range (O48). -/

namespace Sys2Proof.Machine

/-! ### Executions -/

/-- A due command that is accepted: its effect on the state it has left the buffer in, and its answer. -/
theorem State.execute_accepted {s t : State} {c : Command} {rest : List Command} {names : Command → Bool}
    {judge : Command → State → Judged} {results : List Octet} (due : s.Due c rest) (named : names c = true)
    (judged : judge c (s.dequeued rest) = accept t results) :
    s.execute names judge = t.replied (c.answer .ok results) := by
  rw [State.execute_due due named, judged, State.accept_respond]

/-- A due command that is refused is answered and changes nothing else. -/
theorem State.execute_refused {s : State} {c : Command} {rest : List Command} {names : Command → Bool}
    {judge : Command → State → Judged} {st : Status} (due : s.Due c rest) (named : names c = true)
    (judged : judge c (s.dequeued rest) = refuse (s.dequeued rest) st) :
    s.execute names judge = s.answered rest (c.answer st []) := by
  rw [State.execute_due due named, judged, State.refuse_respond]

@[simp] theorem State.dequeued_line (s : State) (rest : List Command) : (s.dequeued rest).line = s.line := rfl

/-! ### Set Line and Read Line -/

theorem Line.inUse_iff (l : Line) :
    l.inUse = true ↔ l.rx ≠ .off ∨ l.txMode ≠ .off ∨ l.openRec ≠ none ∨ l.upQueue ≠ [] := by
  simp [Line.inUse, Option.isSome_iff_ne_none, or_assoc]

/-- Set Line with lawful parameters, by whether the line is in use (R22). -/
theorem judgeSetLine_plain (tag : Octet) (n : LineNo) (p : LineParams) (lawful : p.Lawful) (s : State) :
    judgeSetLine (.plain 0x10 tag (natOctet n.val :: p.octets)) s =
      if (s.line n).inUse then refuse s .busy else accept (s.modLine n fun l => { l with params := p }) [] := by
  simp only [judgeSetLine, Command.plain, LineParams.octets, finOf_natOctet n (by decide : 8 ≤ 256),
    LineParams.ofOctets_octets p lawful]

/-- The octets of Read Line (R23, R189). -/
theorem Line.octets_eq (l : Line) :
    l.octets =
      l.params.octets ++
        [if l.rx = .off then 0x00 else 0x01, l.transmitter.octet, if l.selection = none then 0x00 else 0x01,
          l.selection.getD 0x00, natOctet l.stageCount, if l.overrunPending then 0x01 else 0x00] := by
  have rx : l.rx.octet = if l.rx = .off then 0x00 else 0x01 := by cases l.rx <;> rfl
  have selected : boolOctet l.selection.isSome = if l.selection = none then 0x00 else 0x01 := by
    cases l.selection <;> rfl
  rw [Line.octets, rx, selected]
  rfl

/-- Settles O30: Set Line by `judgeSetLine_plain`, and Read Line by `Line.octets_eq`. -/
theorem setLineAndReadLine : Obligations.SetLineAndReadLine := by
  intro s rest tag n p lawful
  refine ⟨fun c hc due => ?_, fun c hc due params => ?_⟩
  · subst hc
    have row : exec .setLine s = .next (s.execute (hasCode 0x10) judgeSetLine) := rfl
    have judged := judgeSetLine_plain tag n p lawful (s.dequeued rest)
    rw [State.dequeued_line] at judged
    refine ⟨fun rx tx opened closed => ?_, fun busy => ?_⟩
    · have idle : ¬(s.line n).inUse = true := fun h => by
        rcases (Line.inUse_iff _).mp h with h | h | h | h
        · exact h rx
        · exact h tx
        · exact h opened
        · exact h closed
      rw [if_neg idle] at judged
      rw [row, State.execute_accepted due (hasCode_plain ..) judged]
      rfl
    · rw [if_pos ((Line.inUse_iff _).mpr busy)] at judged
      rw [row, State.execute_refused due (hasCode_plain ..) judged]
  · subst hc
    have row : exec .readLine s = .next (s.execute (hasCode 0x11) judgeReadLine) := rfl
    have judged : judgeReadLine (.plain 0x11 tag [natOctet n.val]) (s.dequeued rest) =
        accept (s.dequeued rest) (s.line n).octets := by
      simp only [judgeReadLine, Command.plain, finOf_natOctet n (by decide : 8 ≤ 256)]
      rfl
    rw [row, State.execute_accepted due (hasCode_plain ..) judged, Line.octets_eq, params]
    rfl

/-! ### Line Control -/

/-- The three octets of a switch action (R189). -/
theorem switchOctet_cases {o : Octet} (h : o.toNat ≤ 2) : o = 0x00 ∨ o = 0x01 ∨ o = 0x02 := by
  bv_omega

theorem SwitchAction.ofOctet_eq_none {o : Octet} (h : 2 < o.toNat) : SwitchAction.ofOctet o = Option.none := by
  unfold SwitchAction.ofOctet
  rw [if_neg (by rintro rfl; simp at h), if_neg (by rintro rfl; simp at h), if_neg (by rintro rfl; simp at h)]

theorem SwitchAction.ofOctet_eq {o : Octet} (h : o.toNat ≤ 2) :
    SwitchAction.ofOctet o = some (if o = 0x01 then .on else if o = 0x02 then .off else .none) := by
  rcases switchOctet_cases h with rfl | rfl | rfl <;> rfl

theorem boolOf_eq {o : Octet} (h : o.toNat ≤ 1) : boolOf o = some (o == 0x01) := by
  have two : o = 0x00 ∨ o = 0x01 := by bv_omega
  rcases two with rfl | rfl <;> rfl

/-- The actions of a Line Control, in their order (R31). -/
def State.lineControl (s : State) (n : LineNo) (rx tx fl : Octet) : State :=
  let a : State := if rx = 0x01 then s.receiverOn n else if rx = 0x02 then s.receiverOff n else s
  let b : State := if tx = 0x01 then a.transmitterOn n else if tx = 0x02 then a.transmitterOff n else a
  if fl = 0x01 then b.flush n else b

theorem judgeLineControl_plain (tag : Octet) (n : LineNo) {rx tx fl : Octet} (hrx : rx.toNat ≤ 2) (htx : tx.toNat ≤ 2)
    (hfl : fl.toNat ≤ 1) (s : State) :
    judgeLineControl (.plain 0x12 tag [natOctet n.val, rx, tx, fl]) s = accept (s.lineControl n rx tx fl) [] := by
  have receiver : s.receiverAction n (if rx = 0x01 then .on else if rx = 0x02 then .off else .none) =
      if rx = 0x01 then s.receiverOn n else if rx = 0x02 then s.receiverOff n else s := by
    split
    · rfl
    · split <;> rfl
  have transmitter (u : State) :
      u.transmitterAction n (if tx = 0x01 then .on else if tx = 0x02 then .off else .none) =
        if tx = 0x01 then u.transmitterOn n else if tx = 0x02 then u.transmitterOff n else u := by
    split
    · rfl
    · split <;> rfl
  simp only [judgeLineControl, Command.plain, finOf_natOctet n (by decide : 8 ≤ 256), SwitchAction.ofOctet_eq hrx,
    SwitchAction.ofOctet_eq htx, boolOf_eq hfl, receiver, transmitter, beq_iff_eq, State.lineControl]

/-- A due Line Control whose values are in range, under any row that names it (R31; log 3). -/
theorem State.execute_lineControl {s : State} {rest : List Command} {tag : Octet} {n : LineNo} {rx tx fl : Octet}
    {names : Command → Bool} (due : s.Due (.plain 0x12 tag [natOctet n.val, rx, tx, fl]) rest) (hrx : rx.toNat ≤ 2)
    (htx : tx.toNat ≤ 2) (hfl : fl.toNat ≤ 1) (named : names (.plain 0x12 tag [natOctet n.val, rx, tx, fl]) = true) :
    s.execute names judgeLineControl =
      ((s.dequeued rest).lineControl n rx tx fl).replied
        ((Command.plain 0x12 tag [natOctet n.val, rx, tx, fl]).answer .ok []) :=
  State.execute_accepted due named (judgeLineControl_plain tag n hrx htx hfl _)

theorem controlNames_plain (tag : Octet) (params : List Octet) (place : Nat) (value : Octet)
    (h : params[place]? = some value) : controlNames place value (.plain 0x12 tag params) = true := by
  simp [controlNames, Command.plain, hasCode, h]

/-- A Line Control with a line above 7 or an action that is none of its three is refused RANGE (R31, R189). -/
theorem judgeLineControl_range (tag : Octet) {line rx tx fl : Octet}
    (h : 7 < line.toNat ∨ 2 < rx.toNat ∨ 2 < tx.toNat ∨ 1 < fl.toNat) (s : State) :
    judgeLineControl (.plain 0x12 tag [line, rx, tx, fl]) s = refuse s .range := by
  simp only [judgeLineControl, Command.plain]
  split
  · rename_i hline hrx htx hfl
    rcases h with h | h | h | h
    · rw [finOf_eq_none h] at hline; cases hline
    · rw [SwitchAction.ofOctet_eq_none h] at hrx; cases hrx
    · rw [SwitchAction.ofOctet_eq_none h] at htx; cases htx
    · rw [boolOf_eq_none h] at hfl; cases hfl
  · rfl

/-- Settles O33: every row that names a due Line Control is `State.execute_lineControl`. -/
theorem lineControlActsInOrder : Obligations.LineControlActsInOrder := by
  intro s rest tag n rx tx fl
  constructor
  · intro c hc due hrx htx hfl u a b d
    subst hc
    have row (names : Command → Bool) (named : names (.plain 0x12 tag [natOctet n.val, rx, tx, fl]) = true) :=
      State.execute_lineControl due hrx htx hfl named
    have whole : exec .lineControl s = .next (d.replied _) := congrArg Host.Outcome.next (row (hasCode 0x12) (by simp))
    refine ⟨whole, ?_, ?_, ?_, ?_, ?_⟩
    all_goals
      rintro rfl
      rw [whole]
      exact congrArg Host.Outcome.next (row _ (controlNames_plain _ _ _ _ rfl))
  · intro line c due h
    exact congrArg Host.Outcome.next
      (State.execute_refused due (hasCode_plain ..) (judgeLineControl_range tag h _))

end Sys2Proof.Machine
end

section
/-! SUPPORT. The receiver's switch with a response in progress or none (O31), and the transmitter's switch and the flush (O32). -/

namespace Sys2Proof.Machine

/-! ### Drains and responses that end -/

/-- A drain that is over changes the transmitter's switch alone (R125). -/
theorem Line.settleDrain_eq (l : Line) :
    l.settleDrain =
      { l with
        txMode :=
          if l.txMode = .draining ∧ l.sending = false ∧ l.wait = none ∧ l.downQueue = [] then .off else l.txMode } := by
  have finished : (l.txMode == .draining && !l.sending && l.wait.isNone && l.downQueue.isEmpty) = true ↔
      l.txMode = .draining ∧ l.sending = false ∧ l.wait = none ∧ l.downQueue = [] := by
    simp [and_assoc]
  unfold Line.settleDrain
  simp only [finished]
  split <;> rfl

/-- The drain's end written with its condition outside the line (R125). -/
theorem Line.settleDrain_ite (l : Line) :
    l.settleDrain =
      if l.txMode = .draining ∧ l.sending = false ∧ l.wait = none ∧ l.downQueue = [] then { l with txMode := .off }
      else l := by
  rw [Line.settleDrain_eq]
  split <;> rfl

/-- After a response has ended none is in progress (R67). -/
theorem State.responseOver_calm (s : State) (n : LineNo) (w : WaitName) :
    ((s.responseOver n w).line n).respMark = none := by
  rw [State.responseOver, State.pollEnd_line, State.modLine_line_self, Line.settleDrain_eq]

/-! ### The receiver's switch -/

/-- The continuation marking and the gap timer of a line cleared. -/
def Line.gapCleared (l : Line) : Line := { l with cont := none, gapTimer := none }

/-- With no response in progress, clearing the marking ends nothing (R59). -/
theorem State.clearCont_gapCleared {s : State} {n : LineNo} (calm : (s.line n).respMark = none) :
    ((s.clearCont n).modLine n fun l => { l with gapTimer := none }) = s.modLine n Line.gapCleared := by
  cases cont : (s.line n).cont with
  | none =>
    rw [State.clearCont_none cont]
    refine State.modLine_congr s n ?_
    simp only [Line.gapCleared, ← cont]
  | some m =>
    rw [State.clearCont_some cont calm, State.modLine_modLine]
    rfl

/-- Clearing the marking and the gap timer commutes with the end of a response. -/
theorem State.responseOver_gapCleared (s : State) (n : LineNo) (w : WaitName) :
    (s.responseOver n w).modLine n Line.gapCleared = (s.modLine n Line.gapCleared).responseOver n w :=
  State.responseOver_modLine s n w _ fun l => by
    rw [Line.settleDrain_eq, Line.settleDrain_eq]
    rfl

/-- A line whose receiver is switched off, with its continuation marking and its gap timer cleared (R33, R62). -/
def Line.receiverOff (l : Line) : Line := l.switchOff.gapCleared

/-- A line whose receiver is switched off with the record `r` open, which closes TRUNCATED (R33, R62). -/
def Line.receiverOffCutting (r : UpRecord) (l : Line) : Line :=
  { l.receiverOff with
    openRec := none
    upQueue := l.upQueue ++ [{ r with flags := { r.flags with truncated := true } }]
    counters :=
      { l.counters with
        recordsClosed := satInc l.counters.recordsClosed
        recordsTruncated := satInc l.counters.recordsTruncated } }

/-- The line of a receiver that is switched off with a record open: switched off, the record closed, and the gap
cleared. -/
theorem Line.receiverOffCutting_eq {l : Line} {r : UpRecord} (opened : l.openRec = some r) :
    (l.switchOff.closeOpen .truncated).gapCleared = l.receiverOffCutting r := by
  have opened : l.switchOff.openRec = some r := opened
  simp only [Line.closeOpen, opened]
  rfl

section
variable {s : State} {n : LineNo} (on : (s.line n).rx ≠ .off)
include on

/-- Receiver-off of a receiver that is not OFF (R33). -/
theorem State.receiverOff_eq :
    s.receiverOff n =
      (((((s.modLine n Line.switchOff).closeRecord n .truncated).clearCont n).modLine n fun l =>
        { l with gapTimer := none }).tryBegin n) := by
  unfold State.receiverOff
  rw [if_neg on]

/-- Receiver-off with no record open and no response in progress (R33, R59). -/
theorem State.receiverOff_idle (calm : (s.line n).respMark = none) (closed : (s.line n).openRec = none) :
    s.receiverOff n = (s.modLine n Line.receiverOff).tryBegin n := by
  have closed : ((s.modLine n Line.switchOff).line n).openRec = none := by rwa [State.modLine_line_self]
  have calm : ((s.modLine n Line.switchOff).line n).respMark = none := by rwa [State.modLine_line_self]
  rw [State.receiverOff_eq on, State.closeRecord_none _ closed, State.clearCont_gapCleared calm, State.modLine_modLine]
  rfl

/-- Receiver-off with no record open and the marking of a response, which ends (R33, R59, R67). -/
theorem State.receiverOff_ends {m : Continuation} {w : WaitName} (mark : (s.line n).respMark = some w)
    (closed : (s.line n).openRec = none) (cont : (s.line n).cont = some m) (kind : m.kind = .response) :
    s.receiverOff n = ((s.modLine n Line.receiverOff).responseOver n w).tryBegin n := by
  have closed : ((s.modLine n Line.switchOff).line n).openRec = none := by rwa [State.modLine_line_self]
  have mark : ((s.modLine n Line.switchOff).line n).respMark = some w := by rwa [State.modLine_line_self]
  have cont : ((s.modLine n Line.switchOff).line n).cont = some m := by rwa [State.modLine_line_self]
  have stopped (t : State) : ((t.modLine n Line.gapCleared).responseOver n w).modLine n
      (fun l => { l with gapTimer := none }) = (t.modLine n Line.gapCleared).responseOver n w := by
    rw [State.responseOver_modLine, State.modLine_modLine]
    · rfl
    · intro l
      rw [Line.settleDrain_eq, Line.settleDrain_eq]
  rw [State.receiverOff_eq on, State.closeRecord_none _ closed, State.clearCont_response cont kind mark]
  exact congrArg (fun t : State => t.tryBegin n)
    ((stopped _).trans (congrArg (fun t : State => t.responseOver n w) (State.modLine_modLine s n _ _)))

/-- Receiver-off with a record open and no response in progress: LINE_LOSS (R33, R62). -/
theorem State.receiverOff_cuts {r : UpRecord} (calm : (s.line n).respMark = none)
    (opened : (s.line n).openRec = some r) :
    s.receiverOff n = ((s.modLine n (Line.receiverOffCutting r)).raise (.lineLoss n)).tryBegin n := by
  have opened' : ((s.modLine n Line.switchOff).line n).openRec = some r := by rwa [State.modLine_line_self]
  have calm' : ((s.modLine n Line.switchOff).line n).respMark = none := by rwa [State.modLine_line_self]
  rw [State.receiverOff_eq on, State.closeRecord_truncated opened' calm', State.clearCont_gapCleared ?_,
    State.raise_modLine, State.modLine_modLine, State.modLine_modLine]
  · exact congrArg (fun t : State => (t.raise (.lineLoss n)).tryBegin n)
      (State.modLine_congr s n (Line.receiverOffCutting_eq opened))
  · rw [State.raise_line, State.modLine_line_self, (Line.closeOpen_keeps _ _).2.2.2.2.2, calm']

/-- Receiver-off with the record of a response open: LINE_LOSS, and the response ends (R33, R62, R67). -/
theorem State.receiverOff_cuts_response {r : UpRecord} {w : WaitName} (mark : (s.line n).respMark = some w)
    (opened : (s.line n).openRec = some r) :
    s.receiverOff n =
      (((s.modLine n (Line.receiverOffCutting r)).raise (.lineLoss n)).responseOver n w).tryBegin n := by
  have opened' : ((s.modLine n Line.switchOff).line n).openRec = some r := by rwa [State.modLine_line_self]
  have mark' : ((s.modLine n Line.switchOff).line n).respMark = some w := by rwa [State.modLine_line_self]
  rw [State.receiverOff_eq on, State.closeRecord_response opened' mark' (by decide), if_pos rfl,
    State.clearCont_gapCleared (State.responseOver_calm _ _ _), State.responseOver_gapCleared, State.raise_modLine,
    State.modLine_modLine, State.modLine_modLine]
  exact congrArg (fun t : State => ((t.raise (.lineLoss n)).responseOver n w).tryBegin n)
    (State.modLine_congr s n (Line.receiverOffCutting_eq opened))

end

/-- Settles O31: the five cases of receiver-off are the lemmas `State.receiverOff_idle` to
`State.receiverOff_cuts_response`. -/
theorem receiverOnAndOff : Obligations.ReceiverOnAndOff := by
  intro s rest tag n
  constructor
  · intro c hc due
    subst hc
    have row : exec .receiverOn s = .next (((s.dequeued rest).receiverOn n).replied _) :=
      congrArg Host.Outcome.next
        (State.execute_lineControl due (by decide) (by decide) (by decide) (controlNames_plain _ _ _ _ rfl))
    rw [row, State.receiverOn, State.dequeued_line]
    split <;> rfl
  · intro c hc off due
    subst hc
    have row : exec .receiverOff s = .next (((s.dequeued rest).receiverOff n).replied _) :=
      congrArg Host.Outcome.next
        (State.execute_lineControl due (by decide) (by decide) (by decide) (controlNames_plain _ _ _ _ rfl))
    refine ⟨fun isOff => ?_, fun on calm closed => ?_, fun r on calm opened => ?_, fun w on mark => ⟨fun r opened => ?_,
      fun m closed cont kind => ?_⟩⟩
    · rw [row, State.receiverOff, State.dequeued_line, if_pos isOff]
      rfl
    · rw [row, State.receiverOff_idle (s := s.dequeued rest) on calm closed]
      rfl
    · rw [row, State.receiverOff_cuts (s := s.dequeued rest) on calm opened]
      rfl
    · rw [row, State.receiverOff_cuts_response (s := s.dequeued rest) on mark opened]
      rfl
    · rw [row, State.receiverOff_ends (s := s.dequeued rest) on mark closed cont kind]
      rfl

/-! ### The transmitter's switch -/

/-- Transmitter-off, by the switch and the work (R125). -/
theorem State.transmitterOff_eq (s : State) (n : LineNo) :
    s.transmitterOff n =
      s.modLine n fun l =>
        if l.txMode = .on then
          { l with txMode := if l.sending = false ∧ l.wait = none ∧ l.downQueue = [] then .off else .draining }
        else l := by
  refine State.modLine_congr s n ?_
  cases mode : (s.line n).txMode with
  | on => simp [Line.settleDrain_eq]
  | off => simp
  | draining => simp

/-! ### The flush -/

/-- The state whose flush of line `n` has given back the records that have not begun (R83, R126). -/
def State.flushReturned (s : State) (n : LineNo) : State :=
  { s.modLine n fun l => { l with downQueue := l.flushKept } with
    buffer :=
      { s.buffer with
        freeBlocks := s.buffer.freeBlocks ++ (s.line n).flushed.flatMap fun r => r.chain
        freeDescs := s.buffer.freeDescs ++ (s.line n).flushed.map fun r => r.desc } }

/-- The channels of poll records told of their end, one after another (R148). -/
def State.pollEnds (s : State) (o : PollOutcome) (gone : List DownRecord) : State :=
  gone.foldl (fun (u : State) (r : DownRecord) => u.pollEnd r.channel o) s

theorem State.flush_nothing {s : State} {n : LineNo} (h : (s.line n).flushed = []) : s.flush n = s := by
  simp only [State.flush, h]

/-- A flush of records: one release of them all, one wake pass, their channels told, and the drain's end (R83, R126). -/
theorem State.flush_some {s : State} {n : LineNo} (h : (s.line n).flushed ≠ []) :
    s.flush n =
      ((s.flushReturned n).wakePass.pollEnds .abandoned (s.line n).flushed).modLine n Line.settleDrain := by
  obtain ⟨r, rs, e⟩ := List.exists_cons_of_ne_nil h
  simp only [State.flush, State.flushReturned, State.pollEnds, e, Buffer.giveBack_all]
  rfl

theorem State.pollEnds_line (gone : List DownRecord) (o : PollOutcome) (s : State) (n : LineNo) :
    (s.pollEnds o gone).line n = s.line n := by
  induction gone generalizing s with
  | nil => rfl
  | cons r rs ih => exact (ih _).trans (State.pollEnd_line s r.channel o n)

theorem State.Beside.pollEnds (gone : List DownRecord) (o : PollOutcome) (s : State) : s.Beside (s.pollEnds o gone) := by
  induction gone generalizing s with
  | nil => exact .refl s
  | cons r rs ih => exact (State.Beside.pollEnd s r.channel o).trans (ih _)

theorem State.pollEnds_buffer (gone : List DownRecord) (o : PollOutcome) (s : State) :
    (s.pollEnds o gone).buffer = s.buffer := by
  induction gone generalizing s with
  | nil => rfl
  | cons r rs ih => exact (ih _).trans (State.pollEnd_buffer s r.channel o)

theorem State.pollEnds_mgmt (gone : List DownRecord) (o : PollOutcome) (s : State) :
    (s.pollEnds o gone).mgmt = s.mgmt := by
  induction gone generalizing s with
  | nil => rfl
  | cons r rs ih => exact (ih _).trans (State.pollEnd_mgmt s r.channel o)

/-- A channel whose record has ended is not outstanding and has the outcome (R148). -/
theorem Channel.endRecord_ended (o : PollOutcome) (c : Channel) :
    (c.endRecord o).outstanding = false ∧ (c.endRecord o).outcome = o := by
  unfold Channel.endRecord
  split <;> exact ⟨rfl, rfl⟩

/-- Each channel that a list of records names is told of the end, and stays so (R148). -/
theorem State.pollEnds_ended (gone : List DownRecord) (o : PollOutcome) (s : State) (k : ChannelNo)
    (h : ((s.chan k).outstanding = false ∧ (s.chan k).outcome = o) ∨ ∃ r ∈ gone, r.channel = natOctet k.val) :
    ((s.pollEnds o gone).chan k).outstanding = false ∧ ((s.pollEnds o gone).chan k).outcome = o := by
  induction gone generalizing s with
  | nil => exact h.resolve_right (by simp)
  | cons r rs ih =>
    refine ih (s.pollEnd r.channel o) ?_
    rw [State.pollEnd_chan]
    by_cases here : r.channel = natOctet k.val
    · rw [if_pos here]
      exact .inl (Channel.endRecord_ended o _)
    · rw [if_neg here]
      refine h.imp_right fun ⟨x, hx, name⟩ => ⟨x, ?_, name⟩
      rcases List.mem_cons.mp hx with rfl | hx
      · exact absurd name here
      · exact hx

/-- With no line starved a flush that discards something changes its line, the free lists and the channels (R83, R126). -/
theorem State.flush_noneStarved {s : State} {n : LineNo} (h : (s.line n).flushed ≠ []) (fed : s.NoneStarved) :
    s.flush n = ((s.flushReturned n).pollEnds .abandoned (s.line n).flushed).modLine n Line.settleDrain := by
  rw [State.flush_some h, State.wakePass_noneStarved]
  intro m
  show ((s.modLine n fun l => { l with downQueue := l.flushKept }).line m).starved = false
  rw [State.modLine_line]
  split
  · exact fed n
  · exact fed m

theorem Line.flushKept_eq (l : Line) : l.flushKept = if l.sending = true then l.downQueue.take 1 else [] := rfl

theorem Line.flushed_eq (l : Line) : l.flushed = if l.sending = true then l.downQueue.drop 1 else l.downQueue := rfl

/-- What a flush keeps and what it discards are the downstream queue (R126). -/
theorem Line.flushKept_append_flushed (l : Line) : l.flushKept ++ l.flushed = l.downQueue := by
  rw [Line.flushKept_eq, Line.flushed_eq]
  split
  · exact List.take_append_drop 1 _
  · rfl

/-- A flush that discards something makes the queue shorter. -/
theorem Line.flushKept_lt {l : Line} (h : l.flushed ≠ []) : l.flushKept.length < l.downQueue.length := by
  have more := List.length_pos_iff.mpr h
  rw [← l.flushKept_append_flushed, List.length_append]
  omega

/-- A line whose records that have not begun are flushed (R125, R126). -/
theorem Line.flushed_line (l : Line) (h : l.flushed ≠ []) :
    ({ l with downQueue := l.flushKept } : Line).settleDrain =
      { l with
        downQueue := l.flushKept
        txMode :=
          if l.flushKept.length < l.downQueue.length ∧ l.txMode = .draining ∧ l.sending = false ∧ l.wait = none then .off
          else l.txMode } := by
  have same : (l.txMode = .draining ∧ l.sending = false ∧ l.wait = none ∧ l.flushKept = []) ↔
      (l.flushKept.length < l.downQueue.length ∧ l.txMode = .draining ∧ l.sending = false ∧ l.wait = none) := by
    have kept : l.sending = false → l.flushKept = [] := fun idle => by simp [Line.flushKept_eq, idle]
    constructor
    · rintro ⟨mode, idle, wait, -⟩
      exact ⟨Line.flushKept_lt h, mode, idle, wait⟩
    · rintro ⟨-, mode, idle, wait⟩
      exact ⟨mode, idle, wait, kept idle⟩
  rw [Line.settleDrain_eq]
  simp only [same]

/-- What a flush with no line starved leaves, field by field (R83, R126, R148). -/
structure State.Flushed (s : State) (n : LineNo) (t : State) : Prop where
  others : ∀ m : LineNo, m ≠ n → t.line m = s.line m
  blocks : t.buffer.freeBlocks = s.buffer.freeBlocks ++ (s.line n).flushed.flatMap fun r => r.chain
  descs : t.buffer.freeDescs = s.buffer.freeDescs ++ (s.line n).flushed.map fun r => r.desc
  told : ∀ k : ChannelNo, (∃ r ∈ (s.line n).flushed, r.channel = natOctet k.val) →
    (t.chan k).outstanding = false ∧ (t.chan k).outcome = .abandoned
  line : t.line n =
    { s.line n with
      downQueue := (s.line n).flushKept
      txMode :=
        if (s.line n).flushKept.length < (s.line n).downQueue.length ∧ (s.line n).txMode = .draining ∧
            (s.line n).sending = false ∧ (s.line n).wait = none then .off
        else (s.line n).txMode }
  mgmt : t.mgmt = s.mgmt
  stations : t.stations = s.stations
  framer : t.framer = s.framer

theorem State.flush_flushed {s : State} (n : LineNo) (fed : s.NoneStarved) : s.Flushed n (s.flush n) := by
  by_cases h : (s.line n).flushed = []
  · have kept : (s.line n).flushKept = (s.line n).downQueue := by
      rw [← (s.line n).flushKept_append_flushed, h, List.append_nil]
    rw [State.flush_nothing h]
    refine ⟨fun _ _ => rfl, by simp [h], by simp [h], by simp [h], ?_, rfl, rfl, rfl⟩
    rw [kept, if_neg fun c => Nat.lt_irrefl _ c.1]
  · rw [State.flush_noneStarved h fed]
    have beside := State.Beside.pollEnds (s.line n).flushed .abandoned (s.flushReturned n)
    constructor
    case others =>
      intro m hm
      rw [State.modLine_line_ne _ _ hm.symm, State.pollEnds_line]
      exact State.modLine_line_ne s (fun l => { l with downQueue := l.flushKept }) hm.symm
    case blocks =>
      rw [State.modLine_buffer, State.pollEnds_buffer]
      rfl
    case descs =>
      rw [State.modLine_buffer, State.pollEnds_buffer]
      rfl
    case told => exact fun k named => State.pollEnds_ended _ _ _ k (.inr named)
    case line =>
      have here : (s.flushReturned n).line n = { s.line n with downQueue := (s.line n).flushKept } :=
        State.modLine_line_self s n fun l => { l with downQueue := l.flushKept }
      rw [State.modLine_line_self, State.pollEnds_line, here]
      exact Line.flushed_line _ h
    case mgmt => exact State.pollEnds_mgmt _ _ _
    case stations => exact beside.stations
    case framer => exact beside.framer

/-- Settles O32: transmitter-off by `State.transmitterOff_eq`, and the flush by `State.flush_some` and
`State.flush_flushed`. -/
theorem transmitterSwitchAndFlush : Obligations.TransmitterSwitchAndFlush := by
  intro s rest tag n
  refine ⟨fun c hc due => ?_, fun c hc due => ?_, fun c hc due => ?_⟩
  · subst hc
    exact congrArg Host.Outcome.next
      (State.execute_lineControl due (by decide) (by decide) (by decide) (controlNames_plain _ _ _ _ rfl))
  · subst hc
    have row : exec .transmitterOff s = .next (((s.dequeued rest).transmitterOff n).replied _) :=
      congrArg Host.Outcome.next
        (State.execute_lineControl due (by decide) (by decide) (by decide) (controlNames_plain _ _ _ _ rfl))
    rw [row, State.transmitterOff_eq]
    rfl
  · subst hc
    intro returned
    have row : exec .flush s = .next (((s.dequeued rest).flush n).replied _) :=
      congrArg Host.Outcome.next
        (State.execute_lineControl due (by decide) (by decide) (by decide) (controlNames_plain _ _ _ _ rfl))
    refine ⟨?_, fun fed => ?_⟩
    · intro gone kept hkept hgone
      subst hkept hgone
      refine ⟨fun nothing => ?_, fun some => ?_⟩
      · rw [row, State.flush_nothing (s := s.dequeued rest) nothing]
        rfl
      · rw [row, State.flush_some (s := s.dequeued rest) some, funext Line.settleDrain_ite]
        rfl
    · obtain ⟨others, blocks, descs, told, line, mgmt, stations, framer⟩ :=
        State.flush_flushed (s := s.dequeued rest) n fed
      have kept : (((s.dequeued rest).flush n).line n).downQueue = (s.line n).flushKept := by rw [line]; rfl
      refine ⟨_, row, kept, others, ?_, ?_, mgmt, stations, framer⟩
      · rintro gone rfl
        exact ⟨blocks, descs, told⟩
      · rw [kept, line]
        rfl

end Sys2Proof.Machine
end

section
/-! SUPPORT. The RANGE refusals (O48): for each command, what its judgement says of a value outside its range. -/

namespace Sys2Proof.Machine

/-! ### One value -/

theorem CounterGroup.ofOctet_eq_none {o : Octet} (h : 10 < o.toNat) : CounterGroup.ofOctet o = none := by
  unfold CounterGroup.ofOctet
  rw [if_neg (by rintro rfl; simp at h), if_neg (by rintro rfl; simp at h), if_neg (by rintro rfl; simp at h),
    finOf_eq_none (by omega), Option.map_none]

theorem Scope.ofOctet_eq_none {o : Octet} (h : o = 0x00 ∨ 3 < o.toNat) : Scope.ofOctet o = none := by
  unfold Scope.ofOctet
  rw [if_neg (by rintro rfl; simp at h), if_neg (by rintro rfl; simp at h), if_neg (by rintro rfl; simp at h)]

theorem natOf_eq_none {lo hi : Nat} {o : Octet} (h : o.toNat < lo ∨ hi < o.toNat) : natOf lo hi o = none := by
  unfold natOf
  rw [if_neg (by omega)]

/-! ### Judgements -/

/-- The commands of one value: the row, the code and the least value that is refused. -/
def oneValueRows : List (Instr × Octet × Nat) :=
  [(.enterQuiet, 0x06, 2), (.readLine, 0x11, 8), (.readScript, 0x41, 64), (.readChannel, 0x51, 8),
    (.setArbitration, 0x53, 2)]

theorem judgeReadCounters_range (tag : Octet) {a b : Octet} (h : 10 < a.toNat ∨ 1 < b.toNat) (s : State) :
    judgeReadCounters (.plain 0x03 tag [a, b]) s = refuse s .range := by
  simp only [judgeReadCounters, Command.plain]
  split
  · rename_i group clear
    rcases h with h | h
    · rw [CounterGroup.ofOctet_eq_none h] at group; cases group
    · rw [boolOf_eq_none h] at clear; cases clear
  · rfl
  · rfl

theorem judgeReset_range (sc : Scope) (effect : State → Judged) (tag : Octet) {a : Octet}
    (h : a = 0x00 ∨ 3 < a.toNat) (s : State) :
    judgeReset sc effect (.plain 0x04 tag [a]) s = refuse s .range := by
  simp only [judgeReset, Command.plain, Scope.ofOctet_eq_none h, reduceCtorEq, if_false]

/-- A Reset whose scope is out of range is named by each row of Reset (log 2). -/
theorem resetNames_range (sc : Scope) (tag : Octet) {a : Octet} (h : a = 0x00 ∨ 3 < a.toNat) :
    resetNames sc (.plain 0x04 tag [a]) = true := by
  simp [resetNames, Command.plain, hasCode, Scope.ofOctet_eq_none h]

theorem judgeReadSlot_range (tag : Octet) {a b : Octet} (h : 1 < a.toNat ∨ 27 < b.toNat) (s : State) :
    judgeReadSlot (.plain 0x31 tag [a, b]) s = refuse s .range := by
  simp only [judgeReadSlot, Command.plain]
  split
  · rename_i bank slot
    rcases h with h | h
    · rw [finOf_eq_none h] at bank; cases bank
    · rw [finOf_eq_none h] at slot; cases slot
  · rfl
  · rfl

/-- Octets that are no line's lawful parameters (R22). -/
theorem judgeSetLine_range (tag : Octet) {v : List Octet} (count : v.length = 12)
    (h : ∀ (n : LineNo) (p : LineParams), p.Lawful → v ≠ natOctet n.val :: p.octets) (s : State) :
    judgeSetLine (.plain 0x10 tag v) s = refuse s .range := by
  simp only [judgeSetLine, Command.plain]
  split
  · split
    · rename_i line params
      obtain ⟨lawful, octets⟩ := LineParams.ofOctets_eq_some params
      exact absurd (by rw [octets, ← finOf_eq_some line]) (h _ _ lawful)
    · rfl
    · rfl
  · rename_i other
    match v, count with
    | [_, _, _, _, _, _, _, _, _, _, _, _], _ => exact absurd rfl (other _ _ _ _ _ _ _ _ _ _ _ _)

/-- Octets that are no station's entry (R46). -/
theorem judgeWriteStation_range (tag : Octet) {v : List Octet} (count : v.length = 7)
    (h : ∀ (station : Octet) (e : Station), v ≠ station :: e.octets) (s : State) :
    judgeWriteStation (.plain 0x20 tag v) s = refuse s .range := by
  simp only [judgeWriteStation, Command.plain]
  split
  · split
    · rfl
    · rename_i entry
      exact absurd (by rw [Station.ofOctets_eq_some entry]) (h _ _)
  · rename_i other
    match v, count with
    | [_, _, _, _, _, _, _], _ => exact absurd rfl (other _ _ _ _ _ _ _)

/-- Octets that are no channel's lawful settings (R134). -/
theorem judgeSetChannel_range (tag : Octet) {v : List Octet} (count : v.length = 10)
    (h : ∀ (k : ChannelNo) (p : ChannelSettings), p.Lawful → v ≠ natOctet k.val :: p.octets) (s : State) :
    judgeSetChannel (.plain 0x50 tag v) s = refuse s .range := by
  simp only [judgeSetChannel, Command.plain]
  split
  · split
    · rename_i channel settings
      obtain ⟨lawful, octets⟩ := ChannelSettings.ofOctets_eq_some settings
      exact absurd (by rw [octets, ← finOf_eq_some channel]) (h _ _ lawful)
    · rfl
    · rfl
  · rename_i other
    match v, count with
    | [_, _, _, _, _, _, _, _, _, _], _ => exact absurd rfl (other _ _ _ _ _ _ _ _ _ _)

theorem judgeWriteScript_range (tag : Octet) {a d b len : Octet} {v : List Octet} (count : v.length = len.toNat)
    (h : 63 < a.toNat ∨ 1 < b.toNat ∨ len = 0x00 ∨ 16 < len.toNat) (s : State) :
    judgeWriteScript (.plain 0x40 tag (a :: d :: b :: len :: v)) s = refuse s .range := by
  simp only [judgeWriteScript, Command.plain, count, if_true]
  split
  · rename_i entry reply length
    rcases h with h | h | h
    · rw [finOf_eq_none h] at entry; cases entry
    · rw [boolOf_eq_none h] at reply; cases reply
    · have out : len.toNat < 1 ∨ 16 < len.toNat := h.imp_left (by rintro rfl; decide)
      rw [natOf_eq_none out] at length; cases length
  · rfl

/-! ### Rows -/

/-- A row of one value whose value is out of range. -/
theorem exec_oneValue_range {s : State} {rest : List Command} {tag a : Octet} {i : Instr} {code : Octet} {limit : Nat}
    (row : (i, code, limit) ∈ oneValueRows) (due : s.Due (.plain code tag [a]) rest) (out : limit ≤ a.toNat) :
    exec i s = .next (s.answered rest ((Command.plain code tag [a]).answer .range [])) := by
  simp only [oneValueRows, List.mem_cons, Prod.mk.injEq, List.not_mem_nil, or_false] at row
  rcases row with ⟨rfl, rfl, rfl⟩ | ⟨rfl, rfl, rfl⟩ | ⟨rfl, rfl, rfl⟩ | ⟨rfl, rfl, rfl⟩ | ⟨rfl, rfl, rfl⟩
  all_goals refine congrArg Host.Outcome.next (State.execute_refused due (hasCode_plain ..) ?_)
  · simp only [judgeEnterQuiet, Command.plain, boolOf_eq_none out]
  · simp only [judgeReadLine, Command.plain, finOf_eq_none out]
  · simp only [judgeReadScript, Command.plain, finOf_eq_none out]
  · simp only [judgeReadChannel, Command.plain, finOf_eq_none out]
  · simp only [judgeSetArbitration, Command.plain, boolOf_eq_none out]

/-- Settles O48: each row by the judgement of its command. -/
theorem valuesOutOfRangeAreRefused : Obligations.ValuesOutOfRangeAreRefused := by
  intro s rest tag a b v
  have refused {names : Command → Bool} {judge : Command → State → Judged} {c : Command} (due : s.Due c rest)
      (named : names c = true) (judged : ∀ u, judge c u = refuse u .range) :
      (.next (s.execute names judge) : Host.Outcome State Fault Refusal) =
        .next (s.answered rest (c.answer .range [])) :=
    congrArg Host.Outcome.next (State.execute_refused due named (judged _))
  refine ⟨?one, ?counters, ?reset, ?supervision, ?slot, ?line, ?station, ?channel, ?script⟩
  case one =>
    rintro i code limit row c rfl due out
    exact exec_oneValue_range row due out
  case counters =>
    rintro c rfl due out
    exact refused due (hasCode_plain ..) (judgeReadCounters_range tag out)
  case reset =>
    rintro c rfl due out
    exact ⟨refused due (resetNames_range _ tag out) (judgeReset_range _ _ tag out),
      refused due (resetNames_range _ tag out) (judgeReset_range _ _ tag out),
      refused due (resetNames_range _ tag out) (judgeReset_range _ _ tag out)⟩
  case supervision =>
    rintro c rfl due out
    refine refused due (hasCode_plain ..) fun u => ?_
    simp only [judgeSetSupervision, Command.plain, boolOf_eq_none out]
  case slot =>
    rintro c rfl due out
    exact refused due (hasCode_plain ..) (judgeReadSlot_range tag out)
  case line =>
    rintro c rfl due count out
    exact refused due (hasCode_plain ..) (judgeSetLine_range tag count out)
  case station =>
    rintro c rfl due count out
    exact refused due (hasCode_plain ..) (judgeWriteStation_range tag count out)
  case channel =>
    rintro c rfl due count out
    exact refused due (hasCode_plain ..) (judgeSetChannel_range tag count out)
  case script =>
    rintro c d len rfl due count out
    exact refused due (hasCode_plain ..) (judgeWriteScript_range tag count out)

end Sys2Proof.Machine
end

section
/-! SUPPORT. The character format in both directions (O19): the level of each bit position, what a receiver makes of its samples, and the two together. -/

namespace Sys2Proof.Machine

/-! ### Positions -/

/-- The position of the parity bit, when the format has one (R25). -/
def LineParams.parityPos (p : LineParams) : Nat := p.dataCount + 1 + p.addressMark.toNat

/-- The position of the first stop bit (R25). -/
def LineParams.stopPos (p : LineParams) : Nat := p.parityPos + p.hasParity.toNat

theorem LineParams.charBits_eq (p : LineParams) : p.charBits = p.stopPos + p.stopCount := by
  simp only [LineParams.charBits, LineParams.stopPos, LineParams.parityPos]
  omega

theorem LineParams.dataCount_cases (p : LineParams) :
    (p.dataBits = .seven ∧ p.dataCount = 7) ∨ (p.dataBits = .eight ∧ p.dataCount = 8) := by
  unfold LineParams.dataCount
  cases p.dataBits
  · exact .inl ⟨rfl, rfl⟩
  · exact .inr ⟨rfl, rfl⟩

theorem LineParams.stopCount_eq (p : LineParams) : p.stopCount = if p.stopBits = .two then 2 else 1 := by
  unfold LineParams.stopCount
  cases p.stopBits <;> rfl

theorem LineParams.hasParity_iff (p : LineParams) : p.hasParity = true ↔ p.parity ≠ .none := by
  unfold LineParams.hasParity
  cases p.parity <;> decide

/-- Before the stop bits stand the data bits, the mark and the parity bit (R25). -/
theorem LineParams.before_stop (p : LineParams) {k : Nat} (h : k < p.stopPos) :
    k ≤ p.dataCount ∨ (p.addressMark = true ∧ k = p.dataCount + 1) ∨ (p.hasParity = true ∧ k = p.parityPos) := by
  simp only [LineParams.stopPos, LineParams.parityPos] at h ⊢
  cases mark : p.addressMark <;> cases par : p.hasParity <;>
    simp only [mark, par, Bool.toNat_true, Bool.toNat_false, true_and, false_and, reduceCtorEq] at h ⊢ <;> omega

/-! ### Levels -/

/-- The parity bit a transmitter sends (R118). -/
def LineParams.parityLevel (p : LineParams) (v : Octet) : Bool :=
  match p.parity with
  | .none => false
  | .even => oddOnes p.dataCount v
  | .odd => !oddOnes p.dataCount v

/-- The levels of a character, part by part (R118). -/
theorem charWave_eq (p : LineParams) (v : Octet) (mark : Bool) :
    charWave p v mark =
      [false] ++ (List.range p.dataCount).map v.getLsbD ++ (if p.addressMark then [mark] else []) ++
        (if p.hasParity then [p.parityLevel v] else []) ++ List.replicate p.stopCount true := by
  unfold charWave LineParams.hasParity LineParams.parityLevel
  cases p.parity <;> rfl

theorem length_optional (b a : Bool) : (if b then [a] else []).length = b.toNat := by cases b <;> rfl

theorem charWave_length (p : LineParams) (v : Octet) (mark : Bool) : (charWave p v mark).length = p.charBits := by
  simp only [charWave_eq, List.length_append, length_optional, List.length_map, List.length_range,
    List.length_replicate, List.length_singleton, LineParams.charBits]

/-- A level of the data bits, behind the start bit. -/
theorem charWave_data (p : LineParams) (v : Octet) (mark : Bool) {i : Nat} (h : i < p.dataCount) :
    (charWave p v mark).getD (i + 1) true = v.getLsbD i := by
  rw [charWave_eq]
  simp [List.getD_eq_getElem?_getD, List.getElem?_append, h]

/-- The level of the mark. -/
theorem charWave_mark (p : LineParams) (v : Octet) (mark : Bool) (h : p.addressMark = true) :
    (charWave p v mark).getD (p.dataCount + 1) true = mark := by
  rw [charWave_eq]
  simp [h]

/-- The level of the parity bit. -/
theorem charWave_parity (p : LineParams) (v : Octet) (mark : Bool) (h : p.hasParity = true) :
    (charWave p v mark).getD p.parityPos true = p.parityLevel v := by
  rw [charWave_eq, LineParams.parityPos]
  cases am : p.addressMark <;> simp [h, List.getD_eq_getElem?_getD]

theorem getD_replicate_true (n k : Nat) : (List.replicate n true).getD k true = true := by
  rw [List.getD_eq_getElem?_getD, List.getElem?_replicate]
  split <;> rfl

/-- The level of a stop bit, and of what follows the character. -/
theorem charWave_stop (p : LineParams) (v : Octet) (mark : Bool) {k : Nat} (h : p.stopPos ≤ k) :
    (charWave p v mark).getD k true = true := by
  rw [charWave_eq, List.getD_append_right, getD_replicate_true]
  simp only [List.length_append, length_optional, List.length_map, List.length_range, List.length_singleton]
  simp only [LineParams.stopPos, LineParams.parityPos] at h
  omega

/-! ### Samples -/

/-- The value of the data bits sampled (R25, R26). -/
def LineParams.sampled (p : LineParams) (samples : BitVec 11) : Octet :=
  match p.dataBits with
  | .seven => (samples.setWidth 7).setWidth 8
  | .eight => samples.setWidth 8

/-- The mark sampled: false in a format without one. -/
def LineParams.sampledMark (p : LineParams) (samples : BitVec 11) : Bool :=
  p.addressMark && sampleAt samples (p.dataCount + 1)

/-- The parity bit sampled: false in a format without one. -/
def LineParams.sampledParity (p : LineParams) (samples : BitVec 11) : Bool :=
  p.hasParity && sampleAt samples p.parityPos

/-- Whether a stop bit was sampled low. -/
def LineParams.lowStop (p : LineParams) (samples : BitVec 11) : Bool :=
  !sampleAt samples p.stopPos || (p.stopBits == .two && !sampleAt samples (p.stopPos + 1))

/-- Whether a parity bit is not the one that belongs to a value (R26). -/
def LineParams.parityFails (p : LineParams) (v : Octet) (bit : Bool) : Bool :=
  match p.parity with
  | .none => false
  | .even => oddOnes p.dataCount v ^^ bit
  | .odd => !(oddOnes p.dataCount v ^^ bit)

/-- A break: a low stop bit behind data, mark and parity bits of 0 (R26). -/
def LineParams.isBreak (p : LineParams) (samples : BitVec 11) : Bool :=
  p.lowStop samples && p.sampled samples == 0 && !p.sampledParity samples && !p.sampledMark samples

/-- The parity fails exactly where the bit is not the one a transmitter would have sent. -/
theorem LineParams.parityFails_eq (p : LineParams) (v : Octet) (bit : Bool) :
    p.parityFails v bit = (p.hasParity && (bit ^^ p.parityLevel v)) := by
  unfold LineParams.parityFails LineParams.hasParity LineParams.parityLevel
  cases p.parity <;> cases bit <;> simp

/-- The classification of a character's samples, in the words of R26. -/
theorem classify_eq (p : LineParams) (samples : BitVec 11) :
    classify p samples =
      if p.isBreak samples = true then
        { value := 0, mark := false, parity := false, framing := false, brk := true, overrunBefore := false }
      else
        { value := p.sampled samples
          mark := p.sampledMark samples
          parity := p.parityFails (p.sampled samples) (p.sampledParity samples)
          framing := p.lowStop samples
          brk := false
          overrunBefore := false } := rfl

theorem LineParams.sampled_getLsbD (p : LineParams) (samples : BitVec 11) (i : Nat) :
    (p.sampled samples).getLsbD i = (decide (i < p.dataCount) && sampleAt samples (i + 1)) := by
  unfold LineParams.sampled LineParams.dataCount sampleAt
  cases p.dataBits
  · simp [BitVec.getLsbD_setWidth]
    omega
  · simp [BitVec.getLsbD_setWidth]

/-- The value sampled is the octet whose bits were sampled, in seven bits one whose top bit is 0. -/
theorem LineParams.sampled_eq (p : LineParams) (samples : BitVec 11) (v : Octet)
    (bits : ∀ i, i < p.dataCount → sampleAt samples (i + 1) = v.getLsbD i)
    (top : p.dataBits = .seven → v.getLsbD 7 = false) : p.sampled samples = v := by
  refine BitVec.eq_of_getLsbD_eq fun i hi => ?_
  rw [p.sampled_getLsbD]
  by_cases inside : i < p.dataCount
  · rw [bits i inside, decide_eq_true inside, Bool.true_and]
  · rw [decide_eq_false inside, Bool.false_and]
    obtain ⟨seven, count⟩ | ⟨-, count⟩ := p.dataCount_cases
    · rw [show i = 7 by omega, top seven]
    · omega

/-- A character whose stop bits are high is what its value, its mark and its parity bit say (R26). -/
theorem classify_of_highStop (p : LineParams) (samples : BitVec 11) (high : p.lowStop samples = false) :
    classify p samples =
      { value := p.sampled samples
        mark := p.sampledMark samples
        parity := p.parityFails (p.sampled samples) (p.sampledParity samples)
        framing := false
        brk := false
        overrunBefore := false } := by
  have whole : p.isBreak samples = false := by simp only [LineParams.isBreak, high, Bool.false_and]
  rw [classify_eq, if_neg (by rw [whole]; exact Bool.false_ne_true), high]

/-- The stop bits are high when each was sampled high. -/
theorem LineParams.lowStop_eq_false (p : LineParams) (samples : BitVec 11)
    (high : ∀ k, p.stopPos ≤ k → k < p.charBits → sampleAt samples k = true) : p.lowStop samples = false := by
  rw [p.charBits_eq, p.stopCount_eq] at high
  unfold LineParams.lowStop
  by_cases two : p.stopBits = .two
  · rw [if_pos two] at high
    simp [high p.stopPos (by omega) (by omega), high (p.stopPos + 1) (by omega) (by omega)]
  · rw [if_neg two] at high
    simp [high p.stopPos (by omega) (by omega), two]

theorem LineParams.lowStop_iff (p : LineParams) (samples : BitVec 11) :
    p.lowStop samples = true ↔
      sampleAt samples p.stopPos = false ∨ (p.stopBits = .two ∧ sampleAt samples (p.stopPos + 1) = false) := by
  simp [LineParams.lowStop]

/-- The data bits, the mark and the parity bit stand in front of the stop bits (R25). -/
theorem LineParams.positions_lt (p : LineParams) :
    p.dataCount < p.stopPos ∧ (p.addressMark = true → p.dataCount + 1 < p.stopPos) ∧
      (p.hasParity = true → p.parityPos < p.stopPos) ∧ p.stopPos < p.charBits := by
  rw [p.charBits_eq, p.stopCount_eq]
  simp only [LineParams.stopPos, LineParams.parityPos]
  refine ⟨by omega, fun mark => ?_, fun par => ?_, by split <;> omega⟩
  · rw [mark, Bool.toNat_true]
    omega
  · rw [par, Bool.toNat_true]
    omega

/-- What the levels of a character, with some parity bit, are classified as (R25, R26, R118). -/
theorem classify_sent (p : LineParams) (v : Octet) (mark bit : Bool) (samples : BitVec 11)
    (marked : mark = true → p.addressMark = true) (top : p.dataBits = .seven → v.getLsbD 7 = false)
    (sent : ∀ k, 1 ≤ k → k < p.charBits → (p.hasParity = true → k ≠ p.parityPos) →
      sampleAt samples k = (charWave p v mark).getD k true)
    (parity : p.hasParity = true → sampleAt samples p.parityPos = bit) :
    classify p samples =
      { value := v, mark := mark, parity := p.parityFails v (p.hasParity && bit), framing := false, brk := false
        overrunBefore := false } := by
  obtain ⟨dataLt, markLt, parityLt, stopLt⟩ := p.positions_lt
  have value : p.sampled samples = v :=
    p.sampled_eq samples v (fun i hi => by
      rw [sent (i + 1) (by omega) (by omega) (fun _ => by unfold LineParams.parityPos; omega), charWave_data p v mark hi])
      top
  have markBit : p.sampledMark samples = mark := by
    unfold LineParams.sampledMark
    cases am : p.addressMark with
    | true =>
      rw [sent _ (by omega) (by have := markLt am; omega) (fun _ => by
        rw [LineParams.parityPos, am, Bool.toNat_true]; omega), charWave_mark p v mark am, Bool.true_and]
    | false => cases mark with
      | true => exact absurd (marked rfl) (by rw [am]; exact Bool.false_ne_true)
      | false => rfl
  have parityBit : p.sampledParity samples = (p.hasParity && bit) := by
    unfold LineParams.sampledParity
    cases par : p.hasParity with
    | true => rw [parity par]
    | false => rfl
  have high : p.lowStop samples = false :=
    p.lowStop_eq_false samples fun k first last => by
      rw [sent k (by omega) last (fun par => by have := parityLt par; omega), charWave_stop p v mark first]
  rw [classify_of_highStop p samples high, value, markBit, parityBit]

/-- A break: data, mark and parity bits of 0 and a low stop bit (R26). -/
theorem classify_break (p : LineParams) (samples : BitVec 11) (low : p.lowStop samples = true)
    (zero : ∀ k, 1 ≤ k → k < p.stopPos → sampleAt samples k = false) :
    classify p samples =
      { value := 0x00, mark := false, parity := false, framing := false, brk := true, overrunBefore := false } := by
  obtain ⟨dataLt, markLt, parityLt, -⟩ := p.positions_lt
  have value : p.sampled samples = 0 :=
    p.sampled_eq samples 0
      (fun i hi => by rw [zero (i + 1) (by omega) (by omega), BitVec.ofNat_eq_ofNat, BitVec.getLsbD_zero])
      fun _ => rfl
  have markBit : p.sampledMark samples = false :=
    Bool.and_eq_false_imp.mpr fun am => zero _ (by omega) (markLt am)
  have parityBit : p.sampledParity samples = false :=
    Bool.and_eq_false_imp.mpr fun par => zero _ (by unfold LineParams.parityPos; omega) (parityLt par)
  rw [classify_eq, if_pos]
  rw [LineParams.isBreak, low, value, markBit, parityBit]
  rfl

/-- A low stop bit behind some other bit of 1 is a framing error and no break (R26). -/
theorem classify_framing (p : LineParams) (samples : BitVec 11) (low : p.lowStop samples = true) {k : Nat}
    (first : 1 ≤ k) (last : k < p.stopPos) (one : sampleAt samples k = true) :
    (classify p samples).framing = true ∧ (classify p samples).brk = false := by
  have noBreak : p.isBreak samples = false := by
    rw [LineParams.isBreak]
    obtain data | ⟨am, rfl⟩ | ⟨par, rfl⟩ := p.before_stop last
    · have bit : (p.sampled samples).getLsbD (k - 1) = true := by
        rw [p.sampled_getLsbD, show k - 1 + 1 = k by omega, one, decide_eq_true (by omega), Bool.and_true]
      have value : p.sampled samples ≠ 0 := fun zero => by
        rw [zero, BitVec.ofNat_eq_ofNat, BitVec.getLsbD_zero] at bit
        exact Bool.false_ne_true bit
      rw [beq_eq_false_iff_ne.mpr value, Bool.and_false, Bool.false_and, Bool.false_and]
    · rw [LineParams.sampledMark, am, one, Bool.and_self, Bool.not_true, Bool.and_false]
    · rw [LineParams.sampledParity, par, one, Bool.and_self, Bool.not_true, Bool.and_false, Bool.false_and]
  rw [classify_eq, if_neg (by rw [noBreak]; exact Bool.false_ne_true)]
  exact ⟨low, rfl⟩

/-- Settles O19: each bit position carries the level its part of the format says (`charWave_data` to `charWave_stop`)
and the receiver reads it back from there (`classify_sent`); the parity fails exactly where its bit was turned over. -/
theorem characterFormatInBothDirections : Obligations.CharacterFormatInBothDirections := by
  refine ⟨fun p v mark samples format marked top => ⟨charWave_length p v mark, fun sent => ?_, fun parity sent => ?_⟩,
    fun p samples => ?_⟩
  · rw [classify_sent p v mark (p.parityLevel v) samples marked top (fun k first last _ => sent k first last)
      fun par => ?_]
    · rw [LineParams.parityFails_eq]
      cases p.hasParity <;> simp
    · obtain ⟨-, -, parityLt, stopLt⟩ := p.positions_lt
      rw [sent _ (by unfold LineParams.parityPos; omega) (by have := parityLt par; omega), charWave_parity p v mark par]
  · have par : p.hasParity = true := p.hasParity_iff.mpr parity
    have unmarked : p.addressMark = false := Bool.eq_false_iff.mpr fun am => parity (format am).2
    have noMark : mark = false := Bool.eq_false_iff.mpr fun on => by
      rw [marked on] at unmarked
      exact Bool.false_ne_true unmarked.symm
    have position : p.parityPos = p.dataCount + 1 := by rw [LineParams.parityPos, unmarked, Bool.toNat_false]
    obtain ⟨-, -, parityLt, stopLt⟩ := p.positions_lt
    rw [classify_sent p v mark (!p.parityLevel v) samples marked top (fun k first last other => ?_) fun _ => ?_]
    · rw [LineParams.parityFails_eq, par, noMark]
      cases p.parityLevel v <;> rfl
    · rw [sent k first last, decide_eq_false (position ▸ other par), Bool.xor_false]
    · rw [sent _ (by omega) (by have := parityLt par; omega), charWave_parity p v mark par,
        decide_eq_true position, Bool.xor_true]
  · have stop : p.charBits - p.stopCount = p.stopPos := by rw [p.charBits_eq, Nat.add_sub_cancel]
    simp only [stop]
    intro low _
    have low : p.lowStop samples = true := (p.lowStop_iff samples).mpr low
    exact ⟨classify_break p samples low, fun k first last one => classify_framing p samples low first last one⟩

end Sys2Proof.Machine
end

section
/-! SUPPORT. What the Record Assembler does with a stage entry (O21, O22, O24): which operation an entry is, by the line's format and selection, and what each operation leaves. -/

namespace Sys2Proof.Machine

/-! ### Entries -/

/-- The station a line's unmarked characters belong to: the selected one on an address-mark line, none on a plain
line (R34, R35). -/
def Line.speaker (l : Line) : Option Octet := if l.params.addressMark = true then l.selection else none

/-- A line after a BREAK: on an address-mark line the selection has ended (R36). -/
def Line.deselected (marks : Bool) (l : Line) : Line := if marks then { l with selection := none } else l

theorem State.takeEntry_address {s : State} {n : LineNo} {e : StageEntry} (marks : (s.line n).params.addressMark = true)
    (mark : e.mark = true) (m : Bool) : s.takeEntry n m e = some (s.takeAddress n e) := by
  simp [State.takeEntry, marks, mark]

theorem State.takeEntry_data {s : State} {n : LineNo} {e : StageEntry}
    (own : (s.line n).params.addressMark = false ∨ (e.mark = false ∧ (s.line n).selection.isSome = true))
    (data : e.brk = false) (m : Bool) : s.takeEntry n m e = s.takeData n (s.line n).speaker m e := by
  cases marks : (s.line n).params.addressMark with
  | false => simp [State.takeEntry, Line.speaker, marks, data]
  | true =>
    obtain h | ⟨mark, selected⟩ := own
    · rw [marks] at h; cases h
    · obtain ⟨k, hk⟩ := Option.isSome_iff_exists.mp selected
      simp [State.takeEntry, Line.speaker, marks, mark, hk, data]

theorem State.takeEntry_ignored {s : State} {n : LineNo} {e : StageEntry} (marks : (s.line n).params.addressMark = true)
    (unselected : (s.line n).selection = none) (mark : e.mark = false) (m : Bool) :
    s.takeEntry n m e = some (s.ignored n) := by
  simp [State.takeEntry, marks, mark, unselected]

theorem State.takeEntry_break {s : State} {n : LineNo} {e : StageEntry}
    (own : (s.line n).params.addressMark = false ∨ (e.mark = false ∧ (s.line n).selection.isSome = true))
    (brk : e.brk = true) (m : Bool) :
    s.takeEntry n m e =
      (s.takeBreak n (s.line n).speaker m).map fun t =>
        t.modLine n (Line.deselected (s.line n).params.addressMark) := by
  cases marks : (s.line n).params.addressMark with
  | false =>
    have same : (fun t : State => t.modLine n (Line.deselected false)) = id := funext fun t => State.modLine_id t n rfl
    simp [State.takeEntry, Line.speaker, marks, brk, same]
  | true =>
    obtain h | ⟨mark, selected⟩ := own
    · rw [marks] at h; cases h
    · obtain ⟨k, hk⟩ := Option.isSome_iff_exists.mp selected
      simp [State.takeEntry, Line.speaker, marks, mark, hk, brk]
      rfl

/-- Whether a marker waits, from what it means. -/
theorem StageItem.any_isMarker_eq {items : List StageItem} {waits : Bool}
    (h : waits = true ↔ ∃ i ∈ items, ∀ x : StageEntry, i ≠ .char x) : items.any StageItem.isMarker = waits :=
  Bool.eq_iff_iff.mpr ((StageItem.any_isMarker_iff items).trans h.symm)

/-! ### Opening a record -/

/-- The opening claim granted: the heads of the two free lists are taken and the record opens (R56, R76, R78). -/
theorem State.openRecord_granted {s : State} {n : LineNo} {d k : Nat} {ds ks : List Nat}
    (descs : s.buffer.freeDescs = d :: ds) (blocks : s.buffer.freeBlocks = k :: ks)
    (allowed : s.openingAllowed n = true) (st : Option Octet) (m : Bool) :
    s.openRecord n st m =
      some ({ s with buffer := { s.buffer with freeDescs := ds, freeBlocks := ks } }.modLine n (Line.openNew st m d k)) := by
  simp [State.openRecord, allowed, Buffer.takeBoth, descs, blocks]

/-- Where an opening claim was granted, the line is as `Line.openNew` says and the octets stored are as before. -/
theorem State.openRecord_some {s t : State} {n : LineNo} {st : Option Octet} {m : Bool}
    (h : s.openRecord n st m = some t) :
    ∃ d k b, b.cells = s.buffer.cells ∧ t = { s with buffer := b }.modLine n (Line.openNew st m d k) := by
  unfold State.openRecord Buffer.takeBoth at h
  split at h
  · split at h
    · cases h
    · rename_i d k b taken
      split at taken
      · rename_i d' ds k' ks _ _
        cases taken
        cases h
        exact ⟨d, k, { s.buffer with freeDescs := ds, freeBlocks := ks }, rfl, rfl⟩
      · cases taken
      · cases taken
  · cases h

/-! ### Storing a character -/

/-- A line whose open record has become `r`; at the maximum record length the record closes (R57, R59). -/
def Line.filled (r : UpRecord) (l : Line) : Line :=
  if r.length = l.params.maxLength then Line.closeOpen .maxLength { l with openRec := some r }
  else { l with openRec := some r }

/-- The split at the maximum record length ends no response (R59, R67). -/
theorem State.closeRecord_maxLength (s : State) (n : LineNo) :
    s.closeRecord n .maxLength = s.modLine n (Line.closeOpen .maxLength) := by
  cases opened : (s.line n).openRec with
  | none =>
    rw [State.closeRecord_none _ opened]
    exact (State.modLine_id s n (by simp only [Line.closeOpen, opened])).symm
  | some r => simp [State.closeRecord, opened]

theorem State.appendChar_eq {s : State} {n : LineNo} {r : UpRecord} (opened : (s.line n).openRec = some r)
    (e : StageEntry) :
    s.appendChar n e =
      { s with buffer := s.buffer.storeOctet r.chain r.length e.value }.modLine n (Line.filled (r.append e)) := by
  simp only [State.appendChar, opened]
  split
  next full =>
    rw [State.closeRecord_maxLength, State.modLine_modLine]
    exact State.modLine_congr _ n (if_pos full).symm
  next room => exact State.modLine_congr _ n (if_neg room).symm

/-! ### Taking a data character -/

/-- A line whose open record has become `r`. -/
def Line.holding (r : UpRecord) (l : Line) : Line := { l with openRec := some r }

/-- A change of a line between two states of the Shared Buffer. -/
theorem State.modLine_buffer_modLine (s : State) (n : LineNo) (b c : Buffer) (f g : Line → Line) :
    { { s with buffer := b }.modLine n f with buffer := c }.modLine n g = { s with buffer := c }.modLine n (g ∘ f) :=
  State.modLine_modLine { s with buffer := c } n f g

/-- With a record open the character joins it, with the block that the record grows by, if it is due (R57). -/
theorem State.takeData_open {s : State} {n : LineNo} {r : UpRecord} (opened : (s.line n).openRec = some r)
    {grown free : List Nat}
    (claim : if r.length % 16 = 0 then
        ∃ k, s.buffer.freeBlocks = k :: free ∧ grown = [k] ∧ (s.line n).upBlocks < (s.line n).params.quota ∧
          32 < s.buffer.freeBlocks.length
      else grown = [] ∧ s.buffer.freeBlocks = free)
    (st : Option Octet) (m : Bool) (e : StageEntry) :
    s.takeData n st m e =
      some
        ({ s with
            buffer :=
              Buffer.storeOctet { s.buffer with freeBlocks := free } (r.chain ++ grown) r.length e.value }.modLine n
          (Line.filled (UpRecord.append e { r with chain := r.chain ++ grown }))) := by
  by_cases due : r.length % 16 = 0
  · rw [if_pos due] at claim
    obtain ⟨k, blocks, rfl, quota, reserve⟩ := claim
    have allowed : s.growthAllowed n = true :=
      Bool.and_eq_true_iff.mpr ⟨decide_eq_true quota, decide_eq_true reserve⟩
    have grows : s.growRecord n r =
        some ({ s with buffer := { s.buffer with freeBlocks := free } }.modLine n
          (Line.holding { r with chain := r.chain ++ [k] })) := by
      simp only [State.growRecord, allowed, Buffer.takeBlock, blocks, if_true]
      rfl
    have joined : (({ s with buffer := { s.buffer with freeBlocks := free } }.modLine n
        (Line.holding { r with chain := r.chain ++ [k] })).line n).openRec = some { r with chain := r.chain ++ [k] } := by
      rw [State.modLine_line_self]
      rfl
    simp only [State.takeData, opened]
    rw [if_pos (show r.length % Config.blockSize = 0 from due), grows, Option.map_some, State.appendChar_eq joined,
      State.modLine_buffer_modLine]
    rfl
  · rw [if_neg due] at claim
    obtain ⟨rfl, rfl⟩ := claim
    simp only [State.takeData, opened]
    rw [if_neg (show ¬r.length % Config.blockSize = 0 from due), State.appendChar_eq opened, List.append_nil]

/-- A stored octet is read back and no other address changes. -/
theorem Buffer.storeOctet_reads {b : Buffer} (canonical : Memory.wf b.cells = true) (chain : List Nat) (k : Nat) (v : Octet) :
    (b.storeOctet chain k v).payloadOctet chain k = v ∧
      ∀ a : Nat, a ≠ payloadAddr chain k →
        Memory.read (b.storeOctet chain k v).cells a = Memory.read b.cells a :=
  ⟨Memory.read_write_same canonical _ v, fun _ other => Memory.read_write_other canonical v other⟩

/-- A change of the Shared Buffer and of a line, its stage set, is the change of the line with its stage set. -/
theorem State.withStage_buffer_modLine (s : State) (n : LineNo) (b : Buffer) (x : List StageItem) {f g : Line → Line}
    (h : { f (s.line n) with stage := x } = g (s.line n)) :
    ({ s with buffer := b }.modLine n f).withStage n x = { s.modLine n g with buffer := b } :=
  (State.modLine_modLine { s with buffer := b } n f _).trans (State.modLine_congr { s with buffer := b } n h)

/-- Settles O21: the entry is a data character of its speaker (`State.takeEntry_data`), it joins the record
(`State.takeData_open`), and the rest of the stage follows (`State.drain_taken`). -/
theorem dataCharacterJoinsTheOpenRecord : Obligations.DataCharacterJoinsTheOpenRecord := by
  intro s n e behind r awake stage data own opened canonical grown free claim r'
  have appended : UpRecord.append e { r with chain := r.chain ++ grown } = r' := by
    cases first : r.firstError <;> simp only [r', UpRecord.append, first, Bool.or_eq_true]
  obtain ⟨stored, others⟩ := Buffer.storeOctet_reads (b := { s.buffer with freeBlocks := free }) canonical
    (r.chain ++ grown) r.length e.value
  refine ⟨Buffer.storeOctet { s.buffer with freeBlocks := free } (r.chain ++ grown) r.length e.value, _, rfl, rfl, rfl,
    stored, others, rfl, ?_⟩
  rw [State.drain_taken awake stage ((State.takeEntry_data own data _).trans (State.takeData_open opened claim _ _ e)),
    appended]
  refine congrArg (State.drain · n) (State.withStage_buffer_modLine s n _ behind ?_)
  by_cases full : r.length + 1 = (s.line n).params.maxLength
  · rw [if_pos full]
    simp only [Line.filled]
    rw [if_pos (show r'.length = _ from full)]
    rfl
  · rw [if_neg full]
    simp only [Line.filled]
    rw [if_neg (show ¬r'.length = _ from full)]

end Sys2Proof.Machine
end

section
/-! SUPPORT. The record that opens (O22): its kind, its station and its channel, whether it is LATE, and what opening it does to the line. -/

namespace Sys2Proof.Machine

/-! ### What opens -/

/-- A record answers a wait when the wait has not begun, no marker waits, and the station fits (R66). -/
theorem Line.replyCandidate_eq (l : Line) (st : Option Octet) (m : Bool) (w : ReplyWait) (wait : l.wait = some w) :
    l.replyCandidate st m =
      if w.begun = false ∧ m = false ∧ (!l.params.addressMark || st == some w.station) = true then some w else none := by
  simp only [Line.replyCandidate, wait, Bool.and_eq_true, Bool.not_eq_true', and_assoc]

theorem Line.replyCandidate_none (l : Line) (st : Option Octet) (m : Bool) (wait : l.wait = none) :
    l.replyCandidate st m = none := by
  simp only [Line.replyCandidate, wait]

/-- A record is LATE for the last-expired context when its station fits (R69). -/
theorem Line.lateFor_iff (l : Line) (st : Option Octet) :
    l.lateFor st = true ↔
      ∃ w, l.lastExpired = some w ∧ (!l.params.addressMark || st == some w.station) = true := by
  unfold Line.lateFor
  cases l.lastExpired with
  | none => simp
  | some w => simp

/-- The record that opens on a line, of length 0 (R56). -/
def Line.opened (st : Option Octet) (m : Bool) (desc block : Nat) (l : Line) : UpRecord :=
  let k := l.openingKind st m
  { desc := desc, chain := [block], kind := k.kind, length := 0
    flags :=
      { parity := false, framing := false, overrun := l.lossWhileStarved, brk := false, truncated := false
        continued := false, late := k.kind == .data && l.lateFor k.station }
    station := k.station, channel := k.channel, firstError := none }

theorem Line.openNew_openRec (st : Option Octet) (m : Bool) (d k : Nat) (l : Line) :
    (l.openNew st m d k).openRec = some (l.opened st m d k) := rfl

/-- A record is LATE exactly when it is DATA and the last-expired context fits its station (R69). -/
theorem Line.opened_late (st : Option Octet) (m : Bool) (d k : Nat) (l : Line) :
    (l.opened st m d k).flags.late = true ↔
      (l.opened st m d k).kind = .data ∧
        ∃ w, l.lastExpired = some w ∧
          (!l.params.addressMark || (l.opened st m d k).station == some w.station) = true := by
  rw [← Line.lateFor_iff]
  simp [Line.opened]

theorem Line.openNew_counters (st : Option Octet) (m : Bool) (d k : Nat) (l : Line) :
    (l.openNew st m d k).counters =
      { l.counters with
        late := if (l.opened st m d k).flags.late = true then satInc l.counters.late else l.counters.late } := by
  unfold Line.openNew Line.opened
  dsimp only
  split <;> rfl

/-- Without a continuation marking, what opens and is no reply is DATA of the character's own station (R56). -/
theorem Line.opened_station (st : Option Octet) (m : Bool) (d k : Nat) (l : Line) (fresh : l.cont = none)
    (data : (l.opened st m d k).kind = .data) : (l.opened st m d k).station = st := by
  cases candidate : l.replyCandidate st m with
  | none => simp only [Line.opened, Line.openingKind, fresh, candidate]
  | some w => simp [Line.opened, Line.openingKind, fresh, candidate] at data

/-- A record that follows a continuation marking is of the marking's kind, station and channel and begins no reply
(R56, R59). -/
theorem Line.openNew_continues (st : Option Octet) (m : Bool) (d k : Nat) (l : Line) {c : Continuation}
    (cont : l.cont = some c) :
    ((l.opened st m d k).kind = c.kind ∧ (l.opened st m d k).station = c.station ∧
        (l.opened st m d k).channel = c.channel) ∧
      (l.openNew st m d k).wait = l.wait ∧ (l.openNew st m d k).respMark = l.respMark := by
  simp [Line.opened, Line.openNew, Line.openingKind, cont]

/-- A record that opens without a marking and answers no wait is DATA (R56). -/
theorem Line.openNew_data (st : Option Octet) (m : Bool) (d k : Nat) (l : Line) (fresh : l.cont = none)
    (candidate : l.replyCandidate st m = none) :
    ((l.opened st m d k).kind = .data ∧ (l.opened st m d k).station = st ∧ (l.opened st m d k).channel = none) ∧
      (l.openNew st m d k).wait = l.wait ∧ (l.openNew st m d k).respMark = l.respMark := by
  simp [Line.opened, Line.openNew, Line.openingKind, fresh, candidate]

/-- A record that answers a wait is its RESPONSE, and the wait has begun (R56, R66). -/
theorem Line.openNew_response (st : Option Octet) (m : Bool) (d k : Nat) (l : Line) (fresh : l.cont = none)
    {w : ReplyWait} (candidate : l.replyCandidate st m = some w) :
    ((l.opened st m d k).kind = .response ∧ (l.opened st m d k).station = some w.station ∧
        (l.opened st m d k).channel = some w.channel) ∧
      (l.openNew st m d k).wait = some { w with begun := true, timer := none } ∧
        (l.openNew st m d k).respMark = some { station := w.station, channel := w.channel } := by
  simp [Line.opened, Line.openNew, Line.openingKind, fresh, candidate]

/-- With no record open a character opens one and is stored in it (R56, R57). -/
theorem State.takeData_none {s t : State} {n : LineNo} {st : Option Octet} {m : Bool} (fresh : (s.line n).openRec = none)
    (opens : s.openRecord n st m = some t) (e : StageEntry) : s.takeData n st m e = some (t.appendChar n e) := by
  simp only [State.takeData, fresh, opens, Option.map_some]

/-- After a granted opening claim the record is as R56 says; the octets stored and the format are as before. -/
theorem State.openRecord_opened {s t : State} {n : LineNo} {st : Option Octet} {m : Bool} {r : UpRecord}
    (opens : s.openRecord n st m = some t) (opened : (t.line n).openRec = some r) :
    (∃ d k, (s.line n).opened st m d k = r) ∧ t.buffer.cells = s.buffer.cells ∧
      (t.line n).params = (s.line n).params := by
  obtain ⟨d, k, b, cells, rfl⟩ := State.openRecord_some opens
  rw [State.modLine_line_self] at opened ⊢
  exact ⟨⟨d, k, Option.some.inj opened⟩, cells, rfl⟩

/-- Settles O22: a granted opening claim makes the line `Line.openNew` says, read off by the marking and the wait that
it finds (`Line.openNew_continues`, `_data`, `_response`); the first character is then stored as octet 0. -/
theorem recordOpens : Obligations.RecordOpens := by
  refine ⟨fun s n station markerWaits d k ds ks descs blocks blockReserve descReserve quota => ?_, ?_⟩
  · have allowed : s.openingAllowed n = true := by
      simp only [State.openingAllowed, State.growthAllowed, Bool.and_eq_true, decide_eq_true_eq]
      exact ⟨⟨quota, blockReserve⟩, descReserve⟩
    intro l matches'
    refine ⟨_, l.opened station markerWaits d k, State.openRecord_granted descs blocks allowed _ _, rfl, ?_⟩
    rw [State.modLine_line_self]
    refine ⟨rfl, rfl, rfl, rfl, rfl, rfl, rfl, rfl, rfl, ?_, fun data fresh => ?_, ?_,
      Line.openNew_counters station markerWaits d k l, fun _ other => State.modLine_line_ne _ _ other.symm, rfl, rfl⟩
    · cases cont : l.cont with
      | some c =>
        obtain ⟨⟨kind, speaker, channel⟩, wait, mark⟩ := Line.openNew_continues station markerWaits d k l cont
        exact ⟨kind, speaker, channel, wait, mark⟩
      | none =>
        cases wait : l.wait with
        | none =>
          obtain ⟨⟨kind, speaker, channel⟩, -, mark⟩ :=
            Line.openNew_data station markerWaits d k l cont (l.replyCandidate_none _ _ wait)
          exact ⟨kind, speaker, channel, mark⟩
        | some w =>
          have candidate := l.replyCandidate_eq station markerWaits w wait
          dsimp only
          split
          next fits =>
            obtain ⟨⟨kind, speaker, channel⟩, begun, mark⟩ :=
              Line.openNew_response station markerWaits d k l cont (candidate.trans (if_pos fits))
            exact ⟨kind, speaker, channel, begun, mark⟩
          next other =>
            obtain ⟨⟨kind, speaker, channel⟩, waits, mark⟩ :=
              Line.openNew_data station markerWaits d k l cont (candidate.trans (if_neg other))
            exact ⟨kind, speaker, channel, waits.trans wait, mark⟩
    · rw [Line.opened_late, Line.opened_station _ _ _ _ _ fresh data]
      exact and_iff_right data
    · rw [Line.opened_late]
      simp
  · intro s n e behind markerWaits t r awake stage data own fresh room canonical waits opens opened first
    obtain rfl := StageItem.any_isMarker_eq waits
    have opens : s.openRecord n (s.line n).speaker (behind.any StageItem.isMarker) = some t := opens
    obtain ⟨⟨d, k, rfl⟩, cells, params⟩ := State.openRecord_opened opens opened
    have appended :
        UpRecord.append e ((s.line n).opened (s.line n).speaker (behind.any StageItem.isMarker) d k) = first := by
      simp only [first, UpRecord.append, Line.opened, Bool.or_eq_true, Bool.false_or, Nat.zero_add]
    have short : ¬first.length = (t.line n).params.maxLength := by
      rw [params]
      simp only [first]
      omega
    obtain ⟨stored, others⟩ := Buffer.storeOctet_reads (b := t.buffer) (cells ▸ canonical) [k] 0 e.value
    refine ⟨t.buffer.storeOctet [k] 0 e.value, rfl, rfl, rfl, stored,
      fun a other => (others a other).trans (by rw [cells]), ?_⟩
    rw [State.drain_taken awake stage ((State.takeEntry_data own data _).trans (State.takeData_none fresh opens e)),
      State.appendChar_eq opened, appended]
    refine congrArg (State.drain · n) (State.withStage_buffer_modLine t n _ behind ?_)
    rw [Line.filled, if_neg short]

end Sys2Proof.Machine
end

section
/-! SUPPORT. Breaks, address characters and turns of the traffic (O24). -/

namespace Sys2Proof.Machine

/-! ### Lookups -/

/-- Among stations of which no two share a line and local address, a reverse lookup finds the one that is hit (R44). -/
theorem State.reverse_of_hit {s : State} (unique : s.StationsUnique) {n : LineNo} {a k : Octet}
    (valid : (s.station k).valid = true) (line : (s.station k).line = n) (addr : (s.station k).localAddr = a)
    (capture : (s.station k).capture = true) : s.reverse n a = some k := by
  cases found : s.reverse n a with
  | none => exact absurd ⟨valid, line, addr, capture⟩ (State.reverse_none found k)
  | some j =>
    obtain ⟨jValid, jLine, jAddr, -⟩ := State.reverse_some found
    rw [unique j k jValid valid (jLine.trans line.symm) (jAddr.trans addr.symm)]

/-- A reverse lookup that nothing answers (R44). -/
theorem State.reverse_of_miss {s : State} {n : LineNo} {a : Octet}
    (miss : ∀ k : Octet, ¬((s.station k).valid = true ∧ (s.station k).line = n ∧ (s.station k).localAddr = a ∧
      (s.station k).capture = true)) : s.reverse n a = none := by
  cases found : s.reverse n a with
  | none => rfl
  | some j => exact absurd (State.reverse_some found) (miss j)

/-- The table that a turn of the traffic looks up is the table as it is. -/
theorem State.turnAway_reverse (s : State) (n : LineNo) (a : Octet) : (s.turnAway n).reverse n a = s.reverse n a := by
  have stations := ((State.Beside.kept s n).turnAway (.refl s)).stations
  rw [State.reverse, stations]
  rfl

/-- The traffic turned to a station, the stage set. -/
def Line.turned (k : Option Octet) (behind : List StageItem) (l : Line) : Line := { l with stage := behind, selection := k }

theorem State.select_withStage (s : State) (n : LineNo) (k : Option Octet) (behind : List StageItem) :
    (s.select n k).withStage n behind = s.modLine n (Line.turned k behind) := State.modLine_modLine s n _ _

theorem State.takeAddress_found {s : State} {n : LineNo} {e : StageEntry} {k : Octet} (clean : e.framing = false)
    (found : s.reverse n e.value = some k) : s.takeAddress n e = (s.turnAway n).select n (some k) := by
  simp only [State.takeAddress, clean, State.turnAway_reverse, found, Bool.false_eq_true, if_false]

theorem State.takeAddress_lost {s : State} {n : LineNo} {e : StageEntry}
    (lost : e.framing = true ∨ s.reverse n e.value = none) :
    s.takeAddress n e = ((s.turnAway n).select n none).ignored n := by
  have missed : (if e.framing = true then none else (s.turnAway n).reverse n e.value) = none := by
    rw [State.turnAway_reverse]
    obtain framing | missed := lost
    · exact if_pos framing
    · rw [missed, ite_self]
  simp only [State.takeAddress, missed]

/-! ### Breaks -/

/-- A line on which a BREAK has closed the record `r`, the stage set (R36, R61, R65). -/
def Line.broken (r : UpRecord) (behind : List StageItem) (l : Line) : Line :=
  { l with
    stage := behind, openRec := none, gapTimer := none
    selection := if l.params.addressMark = true then none else l.selection
    upQueue := l.upQueue ++ [{ r with flags := { r.flags with brk := true } }]
    counters := { l.counters with recordsClosed := satInc l.counters.recordsClosed } }

/-- Closing by a BREAK, then ending the selection and setting the stage, is `Line.broken`; a response in progress ends
with it (R61, R67). -/
theorem State.closeRecord_broken {t : State} {n : LineNo} {r : UpRecord} {marks : Bool}
    (opened : (t.line n).openRec = some r) (format : (t.line n).params.addressMark = marks) (behind : List StageItem) :
    ((t.line n).respMark = none →
        (((t.closeRecord n .brk).modLine n (Line.deselected marks)).withStage n behind) =
          t.modLine n (Line.broken r behind)) ∧
      ∀ w : WaitName, (t.line n).respMark = some w →
        (((t.closeRecord n .brk).modLine n (Line.deselected marks)).withStage n behind) =
          (t.modLine n (Line.broken r behind)).responseOver n w := by
  have closed : ((t.modLine n (Line.closeOpen .brk)).modLine n (Line.deselected marks)).withStage n behind =
      t.modLine n (Line.broken r behind) := by
    rw [State.withStage, State.modLine_modLine, State.modLine_modLine]
    refine State.modLine_congr t n ?_
    simp only [Function.comp, Line.closeOpen, opened, Line.deselected, Line.broken, UpRecord.closedBy, format]
    cases marks <;> simp
  refine ⟨fun calm => ?_, fun w answering => ?_⟩
  · rw [State.closeRecord_some opened calm (by decide), closed]
  · rw [State.closeRecord_response opened answering (by decide), if_neg (by decide), State.responseOver_modLine,
      State.withStage, State.responseOver_modLine, ← closed]
    · rfl
    · intro l
      rw [Line.settleDrain_eq, Line.settleDrain_eq]
    · intro l
      rw [Line.settleDrain_eq, Line.settleDrain_eq]
      cases marks <;> rfl

/-- A BREAK with a record open closes it. -/
theorem State.takeBreak_open {s : State} {n : LineNo} {r : UpRecord} (opened : (s.line n).openRec = some r)
    (st : Option Octet) (m : Bool) : s.takeBreak n st m = some (s.closeRecord n .brk) := by
  simp only [State.takeBreak, opened]

/-- A BREAK with no record open opens one and closes it. -/
theorem State.takeBreak_none {s t : State} {n : LineNo} {st : Option Octet} {m : Bool}
    (fresh : (s.line n).openRec = none) (opens : s.openRecord n st m = some t) :
    s.takeBreak n st m = some (t.closeRecord n .brk) := by
  simp only [State.takeBreak, fresh, opens, Option.map_some]

/-! ### Refusals -/

/-- A refused item and those behind it stay in the stage, and the line is starved (R63, R85). -/
theorem State.starve_stage (s : State) (n : LineNo) :
    ((s.starve n).line n).stage = (s.line n).stage ∧ ((s.starve n).line n).starved = true := by
  have same : s.starve n = (s.starve n).withStage n (s.line n).stage := by
    rw [← State.withStage_starve, State.withStage_self rfl]
  constructor
  · rw [same, State.withStage_line]
  · rw [State.starve, State.modLine_line_self]

/-- Settles O24: each item of the stage order is taken alone (`State.drain_taken`), so each part says what one item does:
an address character or a transmit selection, a boundary, a BREAK or an ignored character, and a refused item. -/
theorem breakAndAddressCharacters : Obligations.BreakAndAddressCharacters := by
  refine ⟨State.turnAway_line, fun s n a behind unique => ?_, fun s n behind awake stage => ?_,
    fun s n e behind markerWaits awake stage own waits => ?_, fun s n => ?_⟩
  · intro hit turned
    have found : ∀ k, hit k → s.reverse n a = some k := fun k ⟨valid, line, addr, capture⟩ =>
      State.reverse_of_hit unique valid line addr capture
    refine ⟨fun e awake stage mark value marks => ⟨fun k clean hits => ?_, fun lost => ?_⟩,
      fun awake stage => ⟨fun k hits => ?_, fun miss => ?_⟩⟩
    · subst value
      rw [State.drain_taken awake stage (State.takeEntry_address marks mark _),
        State.takeAddress_found clean (found k hits), State.select_withStage]
      rfl
    · subst value
      have lost := lost.imp_right fun miss => State.reverse_of_miss miss
      rw [State.drain_taken awake stage (State.takeEntry_address marks mark _), State.takeAddress_lost lost,
        ← State.withStage_ignored, State.select_withStage]
      rfl
    · rw [State.drain_taken awake stage rfl, State.turnAway_reverse, found k hits, State.select_withStage]
      rfl
    · rw [State.drain_taken awake stage rfl, State.turnAway_reverse, State.reverse_of_miss miss, State.select_withStage]
      rfl
  · rw [State.drain_taken awake stage rfl]
    rfl
  · intro kept broken
    obtain rfl := StageItem.any_isMarker_eq waits
    refine ⟨fun ⟨marks, unselected⟩ => ?_, fun listens brk => ?_⟩
    · have mark : e.mark = false := own.resolve_left (by simp [marks])
      rw [State.drain_taken awake stage (State.takeEntry_ignored marks unselected mark _)]
      exact congrArg (State.drain · n) (State.modLine_modLine s n _ _)
    · have listens : (s.line n).params.addressMark = false ∨ (e.mark = false ∧ (s.line n).selection.isSome = true) := by
        cases marks : (s.line n).params.addressMark with
        | false => exact .inl rfl
        | true =>
          have selected : (s.line n).selection ≠ none := fun unselected => listens ⟨marks, unselected⟩
          exact .inr ⟨own.resolve_left (by simp [marks]), Option.isSome_iff_ne_none.mpr selected⟩
      have entry := State.takeEntry_break listens brk (behind.any StageItem.isMarker)
      refine ⟨fun r opened => ?_, fun fresh t r opens opened => ?_⟩
      · obtain ⟨calm, answering⟩ := State.closeRecord_broken opened rfl behind
        rw [State.takeBreak_open opened] at entry
        have drained := State.drain_taken awake stage entry
        exact ⟨fun h => by rw [drained, calm h]; rfl, fun w h => by rw [drained, answering w h]; rfl⟩
      · have opens : s.openRecord n (s.line n).speaker (behind.any StageItem.isMarker) = some t := opens
        obtain ⟨⟨d, k, rfl⟩, -, params⟩ := State.openRecord_opened opens opened
        obtain ⟨calm, answering⟩ := State.closeRecord_broken opened (congrArg _ params) behind
        rw [State.takeBreak_none fresh opens] at entry
        have drained := State.drain_taken awake stage entry
        exact ⟨rfl, fun h => by rw [drained, calm h]; rfl, fun w h => by rw [drained, answering w h]; rfl⟩
  · refine ⟨State.drain_nil, fun i behind markerWaits awake stage waits => ?_⟩
    obtain rfl := StageItem.any_isMarker_eq waits
    refine ⟨fun t taken => State.drain_taken awake stage taken, fun refused => ?_⟩
    obtain ⟨stays, starves⟩ := s.starve_stage n
    rw [State.drain_refused awake stage refused]
    exact ⟨stays.trans stage, starves⟩

end Sys2Proof.Machine
end

section
/-! SUPPORT. What a law of the lines, the stations, the storage and the channels must survive, so that every step keeps it: said once of the operations that touch these, and carried through the work of lines, the parsers, the trunk, the commands and the rows. -/

namespace Sys2Proof.Machine

/-! ### What a law may read -/

/-- A line with everything that no standing law reads at its reset value: its parameters, its receiver and stage, the
levels and rests of its transmitter, the times of its timers, its stream and its counters. -/
def Line.standing (l : Line) : Line :=
  { Line.reset with
    selection := l.selection
    openRec := l.openRec
    gapTimer := l.gapTimer.map fun _ => 0
    cont := l.cont
    respMark := l.respMark
    starved := l.starved
    upQueue := l.upQueue
    txMode := l.txMode
    sending := l.sending
    downQueue := l.downQueue
    wait := l.wait.map fun w => { w with timer := none } }

/-- A channel with everything that no standing law reads at its reset value: its requests, its place in the script, its
interval counter and its outcomes. -/
def Channel.standing (c : Channel) : Channel :=
  { Channel.reset with settings := c.settings, armed := c.armed, count := c.count, outstanding := c.outstanding }

/-- The record that the Downstream Parser is reading. -/
def DownParse.record : DownParse → Option DownRecord
  | .payload r _ => some r
  | .waitRestart | .between | .header _ _ | .skip _ => none

/-- From `s` to `t` nothing changes that a standing law reads. -/
structure State.SameStanding (s t : State) : Prop where
  lines : ∀ n, (t.line n).standing = (s.line n).standing := by exact fun _ => rfl
  stations : t.stations = s.stations := by rfl
  cells : t.buffer.cells = s.buffer.cells := by rfl
  freeBlocks : t.buffer.freeBlocks = s.buffer.freeBlocks := by rfl
  freeDescs : t.buffer.freeDescs = s.buffer.freeDescs := by rfl
  channels : ∀ c, (t.chan c).standing = (s.chan c).standing := by exact fun _ => rfl
  record : t.parser.parse.record = s.parser.parse.record := by rfl

theorem State.SameStanding.refl (s : State) : s.SameStanding s := {}

theorem State.SameStanding.trans {s t u : State} (h : s.SameStanding t) (k : t.SameStanding u) : s.SameStanding u where
  lines n := (k.lines n).trans (h.lines n)
  stations := k.stations.trans h.stations
  cells := k.cells.trans h.cells
  freeBlocks := k.freeBlocks.trans h.freeBlocks
  freeDescs := k.freeDescs.trans h.freeDescs
  channels c := (k.channels c).trans (h.channels c)
  record := k.record.trans h.record

theorem State.SameStanding.modLine (s : State) (n : LineNo) {f : Line → Line}
    (h : ∀ l, (f l).standing = l.standing := by exact fun _ => rfl) : s.SameStanding (s.modLine n f) where
  lines m := by
    rw [State.modLine_line]
    split
    · rename_i e; exact e ▸ h _
    · rfl

theorem State.SameStanding.mapLines (s : State) {f : Line → Line}
    (h : ∀ l, (f l).standing = l.standing := by exact fun _ => rfl) : s.SameStanding (s.mapLines f) where
  lines n := by rw [State.mapLines_line]; exact h _

theorem State.SameStanding.modChan (s : State) (c : ChannelNo) {f : Channel → Channel}
    (h : ∀ k, (f k).standing = k.standing := by exact fun _ => rfl) : s.SameStanding (s.modChan c f) where
  channels d := by
    rw [State.modChan_chan]
    split
    · rename_i e; exact e ▸ h _
    · rfl

theorem State.SameStanding.mapChans (s : State) {f : Channel → Channel}
    (h : ∀ k, (f k).standing = k.standing := by exact fun _ => rfl) : s.SameStanding (s.mapChans f) where
  channels c := by rw [State.mapChans_chan]; exact h _

theorem State.SameStanding.raise (s : State) (c : Condition) : s.SameStanding (s.raise c) := {}

theorem State.SameStanding.framer (s : State) (f : Framer) : s.SameStanding { s with framer := f } := {}

theorem State.SameStanding.mgmt (s : State) (m : Mgmt) : s.SameStanding { s with mgmt := m } := {}

/-! ### Ends of records and markings -/

theorem State.endResponse_assembler (s : State) (n : LineNo) :
    ((s.endResponse n).line n).openRec = (s.line n).openRec ∧ ((s.endResponse n).line n).cont = (s.line n).cont := by
  cases mark : (s.line n).respMark with
  | none => rw [State.endResponse_none mark]; exact ⟨rfl, rfl⟩
  | some w =>
    obtain ⟨opened, cont, -⟩ := State.responseOver_assembler s n w
    rw [State.endResponse_some mark]
    exact ⟨opened, cont⟩

/-- A line whose record has closed has none open (R65). -/
theorem State.closeRecord_openRec (s : State) (n : LineNo) (c : CloseCause) :
    ((s.closeRecord n c).line n).openRec = none := by
  unfold State.closeRecord
  split
  · assumption
  · rename_i r opened
    have closed : ((if c = .truncated then (s.modLine n (Line.closeOpen c)).raise (.lineLoss n)
        else s.modLine n (Line.closeOpen c)).line n).openRec = none := by
      split <;> simp [Line.closeOpen, opened]
    dsimp only
    split
    · exact closed
    · exact (State.endResponse_assembler _ n).1.trans closed

/-- A line whose continuation marking is cleared has none, and its record stays as it was (R59). -/
theorem State.clearCont_assembler (s : State) (n : LineNo) :
    ((s.clearCont n).line n).openRec = (s.line n).openRec ∧ ((s.clearCont n).line n).cont = none := by
  unfold State.clearCont
  split
  · rename_i none; exact ⟨rfl, none⟩
  · have cleared := State.modLine_line_self s n fun l => { l with cont := none, gapTimer := none }
    dsimp only
    split
    · obtain ⟨opened, cont⟩ :=
        State.endResponse_assembler (s.modLine n fun l => { l with cont := none, gapTimer := none }) n
      rw [opened, cont, cleared]
      exact ⟨rfl, rfl⟩
    · rw [cleared]
      exact ⟨rfl, rfl⟩

/-! ### Line work -/

/-- A law that every operation of a line's own work keeps: closing, opening and filling its record, clearing its
marking, selecting a station, its starvation, the beginning of a record and the stop of an idle gap timer. -/
structure KeptByWork (P : State → Prop) : Prop where
  same : ∀ {s t : State}, s.SameStanding t → P s → P t
  close : ∀ s n c, P s → P (s.closeRecord n c)
  clear : ∀ s n, P s → P (s.clearCont n)
  opens : ∀ s n st m t, (s.line n).starved = false → (s.line n).openRec = none → P s →
    s.openRecord n st m = some t → P t
  grow : ∀ s n r t, (s.line n).openRec = some r → P s → s.growRecord n r = some t → P t
  append : ∀ s n e, P s → P (s.appendChar n e)
  select : ∀ s n k, (∀ j, k = some j → ∃ a, s.reverse n a = some j) → P s → P (s.select n k)
  starve : ∀ s n, P s → P (s.starve n)
  rouse : ∀ s n, P s → P (s.modLine n fun l => { l with starved := false })
  begins : ∀ s n, (s.line n).downQueue ≠ [] → (s.line n).mayBegin = true → P s →
    P (s.modLine n fun l => { l with sending := true })
  stopGap : ∀ s n, (s.line n).openRec = none → (s.line n).cont = none → P s →
    P (s.modLine n fun l => { l with gapTimer := none })

section
variable {P : State → Prop}

/-- A change of what no standing law reads of a line. -/
theorem KeptByWork.steady (h : KeptByWork P) {s : State} (n : LineNo) {f : Line → Line} (hs : P s)
    (hf : ∀ l, (f l).standing = l.standing := by exact fun _ => rfl) : P (s.modLine n f) := h.same (.modLine s n hf) hs

theorem KeptByWork.items (h : KeptByWork P) (n : LineNo) :
    KeptByItems (fun s => P s ∧ (s.line n).starved = false) n where
  close s c hs := ⟨h.close s n c hs.1, (State.starved_kept n false).close s c hs.2⟩
  clear s hs := ⟨h.clear s n hs.1, (State.starved_kept n false).clear s hs.2⟩
  opens s st m t closed hs ht :=
    ⟨h.opens s n st m t hs.2 closed hs.1 ht, (State.starved_kept n false).opens s st m t closed hs.2 ht⟩
  grow s r t opened hs ht := ⟨h.grow s n r t opened hs.1 ht, (State.starved_kept n false).grow s r t opened hs.2 ht⟩
  append s e hs := ⟨h.append s n e hs.1, (State.starved_kept n false).append s e hs.2⟩
  select s k found hs := ⟨h.select s n k found hs.1, (State.starved_kept n false).select s k found hs.2⟩
  ignored s hs := ⟨h.steady n hs.1, (State.starved_kept n false).ignored s hs.2⟩

theorem KeptByWork.drain (h : KeptByWork P) {s : State} (n : LineNo) (hs : P s) : P (s.drain n) :=
  State.drain_keeps (P := fun s => P s ∧ (s.line n).starved = false) (fun _ => hs) (fun awake => ⟨hs, awake⟩)
    (fun _ _ _ _ hu ht => (h.items n).takeItem hu ht) (fun _ hu => h.steady n hu.1)
    (fun t _ _ _ hu => h.steady n (h.starve t n hu.1))

theorem KeptByWork.tryBegin (h : KeptByWork P) {s : State} (n : LineNo) (hs : P s) : P (s.tryBegin n) := by
  refine State.tryBegin_keeps (fun r rest queue free => h.drain n ?_) hs
  have begun := h.begins s n (by rw [queue]; exact List.cons_ne_nil r rest) free hs
  have same := State.SameStanding.modLine (s.modLine n fun l => { l with sending := true }) n
    (f := fun l => { l with
      wave := recordWave l.params r.localAddr r.brk (s.buffer.payload r.chain r.length)
      lastExpired := none
      stage := l.stage ++ l.beginMarker r })
  rw [State.modLine_modLine] at same
  exact h.same same begun

theorem KeptByWork.serve (h : KeptByWork P) {s : State} (n : LineNo) (hs : P s) : P (s.serve n) :=
  h.tryBegin n (h.drain n hs)

theorem KeptByWork.retry (h : KeptByWork P) {s : State} (n : LineNo) (hs : P s) : P (s.retry n) :=
  h.serve n (h.same (s := s.modLine n fun l => { l with starved := false }) {} (h.rouse s n hs))

theorem KeptByWork.wakePass (h : KeptByWork P) {s : State} (hs : P s) : P s.wakePass :=
  State.wakePass_keeps (fun _ n hu _ _ => h.retry n hu) hs

theorem KeptByWork.release (h : KeptByWork P) {s : State} {chain : List Nat} {desc : Nat}
    (hs : P { s with buffer := s.buffer.giveBack chain desc }) : P (s.release chain desc) := h.wakePass hs

theorem KeptByWork.turnAway (h : KeptByWork P) {s : State} (n : LineNo) (hs : P s) : P (s.turnAway n) :=
  h.clear _ n (h.close s n .plain hs)

/-- The gap timer of a line whose traffic has turned away stops (R58). -/
theorem KeptByWork.turnAwayStop (h : KeptByWork P) {s : State} (n : LineNo) (hs : P s) :
    P ((s.turnAway n).modLine n fun l => { l with gapTimer := none }) := by
  obtain ⟨closed, cleared, -⟩ := s.turnAway_assembler n
  exact h.stopGap _ n closed cleared (h.turnAway n hs)

theorem KeptByWork.quietDrain (h : KeptByWork P) {s : State} (n : LineNo) (hs : P s) : P (s.quietDrain n) :=
  h.turnAwayStop n (h.drain n hs)

theorem KeptByWork.gapExpires (h : KeptByWork P) {s : State} (n : LineNo) (hs : P s) : P (s.gapExpires n) :=
  h.tryBegin n (h.turnAwayStop n hs)

theorem KeptByWork.stageChar (h : KeptByWork P) {s : State} (n : LineNo) (e : StageEntry) (hs : P s) :
    P (s.stageChar n e) :=
  h.serve n (h.steady n hs fun l => by cases q : l.gapTimer <;> simp [Line.standing, q])

theorem KeptByWork.completeChar (h : KeptByWork P) {s : State} (n : LineNo) (samples : BitVec 11) (hs : P s) :
    P (s.completeChar n samples) := by
  have ended (brk : Bool) : P (s.modLine n (Line.charEnded brk)) :=
    h.steady n hs fun l => by cases brk <;> rfl
  unfold State.completeChar
  dsimp only
  split
  · exact ended _
  · split
    · exact h.stageChar n _ (ended _)
    · exact h.same (.raise _ _) (h.steady n (ended _))

theorem KeptByWork.receiverOn (h : KeptByWork P) {s : State} (n : LineNo) (hs : P s) : P (s.receiverOn n) := by
  unfold State.receiverOn
  split
  · have deselected := h.select s n none (fun _ hk => nomatch hk) hs
    have same := State.SameStanding.modLine (s.select n none) n
      (f := fun l => { l with rx := .hunt, stage := [], overrunPending := false })
    rw [State.select, State.modLine_modLine] at same
    exact h.same same deselected
  · exact hs

/-- A receiver switched off, but for its record and its marking: the selection ends and the line leaves the starved set
(R33). -/
theorem KeptByWork.switchOff (h : KeptByWork P) {s : State} (n : LineNo) (hs : P s) : P (s.modLine n Line.switchOff) := by
  have deselected := h.rouse _ n (h.select s n none (fun _ hk => nomatch hk) hs)
  have same := State.SameStanding.modLine ((s.select n none).modLine n fun l => { l with starved := false }) n
    (f := fun l => { l with
      rx := .off, highWait := none, stage := [], overrunPending := false, lossWhileStarved := false })
  rw [State.select, State.modLine_modLine, State.modLine_modLine] at same
  exact h.same same (by rwa [State.select, State.modLine_modLine] at deselected)

theorem KeptByWork.receiverOff (h : KeptByWork P) {s : State} (n : LineNo) (hs : P s) : P (s.receiverOff n) := by
  unfold State.receiverOff
  split
  · exact hs
  · obtain ⟨opened, cleared⟩ := State.clearCont_assembler ((s.modLine n Line.switchOff).closeRecord n .truncated) n
    exact h.tryBegin n (h.stopGap _ n (opened.trans (State.closeRecord_openRec _ n _)) cleared
      (h.clear _ n (h.close _ n _ (h.switchOff n hs))))

/-- What each of a list's operations keeps, they keep together. -/
theorem foldl_keeps {α : Type} {f : State → α → State} (hf : ∀ s a, P s → P (f s a)) (as : List α) {s : State}
    (hs : P s) : P (as.foldl f s) :=
  List.foldlRecOn as f hs fun t ht a _ => hf t a ht

end

/-! ### What the rows do besides -/

/-- A law that every step keeps, by what it must survive besides line work: a downstream record's way from its header
to its line's queue, the ends of records and waits, the transmitter's switch and the flush, grants and the channel
commands, the Station Table's commands, and the resets. -/
structure KeptByRows (P : State → Prop) : Prop extends KeptByWork P where
  claim : ∀ s r d b, s.parser.parse.record = none → s.buffer.takeDesc = some (d, b) → r.desc = d → r.chain = [] →
    r.channel = 0xFF → P s → P ({ s with buffer := b }.setParse (.payload r 0))
  grown : ∀ s r k i b, s.parser.parse = .payload r k → s.buffer.takeBlock = some (i, b) → P s →
    P ({ s with buffer := b }.setParse (.payload { r with chain := r.chain ++ [i] } k))
  stored : ∀ s r k o, s.parser.parse = .payload r k → P s → P { s with buffer := s.buffer.storeOctet r.chain k o }
  dropped : ∀ s r k p, s.parser.parse = .payload r k → p.record = none → P s →
    P { s.setParse p with buffer := s.buffer.giveBack r.chain r.desc }
  queued : ∀ s r k, s.parser.parse = .payload r k → (s.line r.line).refusesRecords = false →
    (s.line r.line).downQueue.length < Config.downQueueSize → P s →
    P ((s.setParse .between).modLine r.line fun l => { l with downQueue := l.downQueue ++ [r] })
  sent : ∀ s n r rest, (s.line n).upQueue = r :: rest → P s →
    P { s.modLine n (fun l => { l with upQueue := rest }) with buffer := s.buffer.giveBack r.chain r.desc }
  recordEnd : ∀ s n r rest, (s.line n).sending = true → (s.line n).downQueue = r :: rest → P s →
    P (s.recordEnd n r rest)
  noReply : ∀ s n w d b, s.buffer.takeDesc = some (d, b) → P s →
    P ({ s with buffer := b }.modLine n fun l => { l with upQueue := l.upQueue ++ [noReplyRecord w d] })
  expired : ∀ s n w, (s.line n).wait = some w → w.begun = false → P s →
    P ((s.modLine n (Line.waitExpired w)).pollEnd w.channel .noReply)
  transmitterOn : ∀ s n, P s → P (s.modLine n fun l => { l with txMode := .on })
  transmitterOff : ∀ s n, P s → P (s.transmitterOff n)
  flush : ∀ s n, P s → P (s.flush n)
  granted : ∀ s c e st d k b, s.eligible c = true → s.grantStation c e = some st → s.buffer.takeBoth = some (d, k, b) →
    P s →
    P (({ s with buffer := b.storeAll [k] 0 e.payload }.modLine st.line fun l =>
      { l with downQueue := l.downQueue ++ [pollRecord c e st d k] }).modChan c Channel.afterGrant)
  mask : ∀ s c, P s → P (s.modChan c Channel.masked)
  maskAll : ∀ s, P s → P (s.mapChans Channel.masked)
  arm : ∀ s c, P s → P (s.modChan c Channel.arm)
  configure : ∀ s c p, (s.chan c).inUse = false → p.Lawful → P s → P (s.modChan c (Channel.configure p))
  setStation : ∀ s k e, s.referenced k = false → (e.valid = true → s.conflict k e = none) → P s → P (s.setStation k e)
  fullReset : ∀ s c, P s → P (s.fullReset c)
  linesReset : ∀ s, P s → P s.linesReset

section
variable {P : State → Prop}

/-! ### The downstream parsers -/

theorem KeptByRows.setParse (h : KeptByRows P) {s : State} {p : DownParse}
    (hp : p.record = s.parser.parse.record) (hs : P s) : P (s.setParse p) := h.same { record := hp } hs

theorem KeptByRows.discardDown (h : KeptByRows P) {s : State} {d : Discard} {p : DownParse}
    (hp : p.record = s.parser.parse.record) (hs : P s) : P (s.discardDown d p) := h.same { record := hp } hs

/-- A record that is discarded after its header gives its storage back, and a wake pass follows (R83, R115). -/
theorem KeptByRows.discardRecord (h : KeptByRows P) {s : State} {r : DownRecord} {k : Nat} {d : Discard} {p : DownParse}
    (reading : s.parser.parse = .payload r k) (hp : p.record = none) (hs : P s) :
    P ((s.discardDown d p).release r.chain r.desc) :=
  h.release (h.same (s := { s.setParse p with buffer := s.buffer.giveBack r.chain r.desc }) {}
    (h.dropped s r k p reading hp hs))

theorem KeptByRows.interruptDown (h : KeptByRows P) {s : State} {p : DownParse} (hp : p.record = none) (hs : P s) :
    P (s.interruptDown p) := by
  unfold State.interruptDown
  split
  · rename_i reading; exact h.setParse (by rw [reading, hp]; rfl) hs
  · rename_i reading; exact h.setParse (by rw [reading, hp]; rfl) hs
  · rename_i reading; exact h.setParse (by rw [reading, hp]; rfl) hs
  · rename_i reading; exact h.discardDown (by rw [reading, hp]; rfl) hs
  · rename_i reading; exact h.discardRecord reading hp hs

theorem State.SameStanding.interruptCommand (s : State) (p : CmdParse) : s.SameStanding (s.interruptCommand p) := by
  unfold State.interruptCommand
  split <;> exact {}

theorem KeptByRows.parsersWait (h : KeptByRows P) {s : State} (hs : P s) : P s.parsersWait :=
  h.same (.interruptCommand _ _) (h.interruptDown rfl hs)

theorem KeptByRows.appendDown (h : KeptByRows P) {s : State} {r : DownRecord} {k : Nat}
    (reading : s.parser.parse = .payload r k) (hs : P s) : P (s.appendDown r) := by
  unfold State.appendDown
  split
  · exact h.discardRecord reading rfl hs
  · rename_i accepts
    split
    · exact h.discardRecord reading rfl hs
    · rename_i room
      exact h.tryBegin _ (h.queued s r k reading (Bool.eq_false_of_not_eq_true accepts) (Nat.not_le.mp room) hs)

theorem KeptByRows.storePayload (h : KeptByRows P) {s : State} {r : DownRecord} {k : Nat} (o : Octet)
    (reading : s.parser.parse = .payload r k) (hs : P s) : P (s.storePayload r k o) := by
  have stored := h.stored s r k o reading hs
  unfold State.storePayload
  dsimp only
  split
  · exact h.appendDown (k := k) reading stored
  · exact h.setParse (by simp only [reading]; rfl) stored

theorem afterSkip_record (n : Nat) : (afterSkip n).record = none := by
  unfold afterSkip
  split <;> rfl

theorem KeptByRows.feedPayload (h : KeptByRows P) {s : State} {r : DownRecord} {k : Nat} (o : Octet)
    (reading : s.parser.parse = .payload r k) (hs : P s) : P (s.feedPayload r k o) := by
  unfold State.feedPayload
  split
  · split
    · exact h.discardRecord reading (afterSkip_record _) hs
    · rename_i i b taken
      exact h.storePayload (s := { s with buffer := b }.setParse (.payload { r with chain := r.chain ++ [i] } k)) o rfl
        (h.grown s r k i b reading taken hs)
  · exact h.storePayload o reading hs

theorem KeptByRows.headerComplete (h : KeptByRows P) {s : State} (k : DownKind) (len : Nat) (station : Octet)
    (reading : s.parser.parse.record = none) (hs : P s) : P (s.headerComplete k len station) := by
  have skipped : (afterSkip len).record = s.parser.parse.record := (afterSkip_record len).trans reading.symm
  unfold State.headerComplete
  split
  · exact h.discardDown skipped hs
  · split
    · exact h.discardDown skipped hs
    · rename_i e _ _ d b taken
      have claimed := h.claim s
        { desc := d, chain := [], origin := .headEnd, brk := k == .sendBreak, reply := k.replyFlag e
          station := station, line := e.line, localAddr := e.localAddr, channel := 0xFF, length := len } d b
        reading taken rfl rfl rfl hs
      have appended := h.appendDown (k := 0) rfl claimed
      dsimp only
      split
      · exact appended
      · exact claimed

theorem KeptByRows.feedDown (h : KeptByRows P) {s : State} (o : Octet) (hs : P s) : P (s.feedDown o) := by
  unfold State.feedDown
  split
  · exact hs
  · rename_i reading
    split
    · exact hs
    · split
      · exact h.setParse (by rw [reading]; rfl) hs
      · exact h.discardDown (by rw [reading]; rfl) hs
  · rename_i reading; exact h.setParse (by rw [reading]; rfl) hs
  · rename_i reading; exact h.headerComplete _ _ o (by rw [reading]; rfl) hs
  · rename_i reading; exact h.feedPayload o reading hs
  · rename_i reading; exact h.setParse (by rw [reading]; rfl) hs
  · rename_i reading; exact h.setParse (by rw [reading]; exact afterSkip_record _) hs

theorem State.SameStanding.commandComplete (s : State) (c : Command) : s.SameStanding (s.commandComplete c) := by
  unfold State.commandComplete
  dsimp only
  split <;> exact {}

theorem State.SameStanding.feedCommand (s : State) (o : Octet) : s.SameStanding (s.feedCommand o) := by
  unfold State.feedCommand
  split
  · exact .refl s
  · split <;> exact {}
  · exact {}
  · split
    · exact .commandComplete s _
    · split <;> exact {}
  · dsimp only
    split
    · exact .commandComplete s _
    · exact {}
  · split
    · exact .commandComplete s _
    · exact {}

theorem KeptByRows.takeSlots (h : KeptByRows P) {s : State} (octets : List Octet) (hs : P s) : P (s.takeSlots octets) :=
  h.same (.feedCommand _ _) (foldl_keeps (fun _ o ht => h.feedDown o ht) _ hs)

/-! ### The trunk -/

theorem State.SameStanding.checkStreams (s : State) : s.SameStanding s.checkStreams := by
  rw [State.checkStreams_eq]
  split
  · exact { lines := fun n => by rw [State.breakOff_line]; rfl }
  · exact .refl s

theorem State.SameStanding.startFrame (s : State) : s.SameStanding s.startFrame := by
  have lines (n : LineNo) : (s.startFrame.line n).standing = (s.line n).standing := by rw [State.startFrame_line]; rfl
  rw [State.startFrame_frame]
  exact { lines }

theorem State.SameStanding.loseAlignment (s : State) : s.SameStanding s.loseAlignment := {}

theorem KeptByRows.lineSlot (h : KeptByRows P) {s : State} (n : LineNo) (hs : P s) : P (s.lineSlot n) := by
  have octet (o : Octet) : P (s.sendOctet o) := h.same (.framer s _) hs
  unfold State.lineSlot
  split
  · exact h.steady n (octet _)
  · rename_i k r rest _ queue
    dsimp only
    split
    · have sent := h.sent ((s.sendOctet (r.octet s.buffer k)).modLine n fun l => { l with pos := .idle }) n r rest
        (by rw [State.modLine_line_self]; exact queue) (h.steady n (octet _))
      rw [State.modLine_modLine] at sent
      exact h.release sent
    · exact h.steady n (octet _)
  · exact octet _
  · exact octet _
  · exact octet _

theorem KeptByRows.dataSlot (h : KeptByRows P) {s : State} (k : SlotNo) (hs : P s) : P (s.dataSlot k) := by
  unfold State.dataSlot
  split
  · exact h.same (.framer s _) hs
  · exact h.lineSlot _ hs

theorem KeptByRows.beginQuiet (h : KeptByRows P) {s : State} (hs : P s) : P s.beginQuiet :=
  h.same (.checkStreams _) (h.parsersWait (h.same (.framer s _) hs))

theorem KeptByRows.responseEnd (h : KeptByRows P) {s : State} (r : Response) (rest : List Response) (hs : P s) :
    P (s.responseEnd r rest) := by
  have left : P { s with
      mgmt := { s.mgmt with responses := rest }, serializer := { s.serializer with mgmtPos := .idle } } :=
    h.same {} hs
  unfold State.responseEnd
  dsimp only
  split
  · exact left
  · exact h.fullReset _ _ left
  · exact h.beginQuiet left
  · exact iteInduction (fun _ => h.same {} left) fun _ => left

theorem KeptByRows.managementSlot (h : KeptByRows P) {s : State} (hs : P s) : P s.managementSlot := by
  have octet (o : Octet) : P (s.sendOctet o) := h.same (.framer s _) hs
  unfold State.managementSlot
  split
  · exact octet _
  · split
    · exact h.same {} hs
    · dsimp only
      split
      · exact h.responseEnd _ _ (octet _)
      · exact h.same {} hs
    · exact octet _

theorem KeptByRows.restartEvent (h : KeptByRows P) {s : State} (hs : P s) : P s.restartEvent :=
  h.same (.interruptCommand _ _) (h.interruptDown rfl (h.same (.framer s _) hs))

theorem KeptByRows.deliver (h : KeptByRows P) {s : State} (octets : List Octet) (hs : P s) : P (s.deliver octets) := by
  rw [State.deliver_eq]
  exact h.takeSlots octets (iteInduction (fun _ => h.restartEvent hs) fun _ => hs)

theorem KeptByRows.frameInAligned (h : KeptByRows P) {s : State} (octets : List Octet) (hs : P s) :
    P (s.frameInAligned octets) := by
  unfold State.frameInAligned
  split
  · dsimp only
    split
    · exact h.deliver _ (h.parsersWait (h.same (.framer s _) hs))
    · exact h.same (.framer s _) hs
  · dsimp only
    split
    · exact h.same (.loseAlignment _) (h.same (.framer s _) hs)
    · exact h.same (.framer s _) hs

theorem KeptByRows.frameInOperational (h : KeptByRows P) {s : State} (octets : List Octet) (hs : P s) :
    P (s.frameInOperational octets) := by
  unfold State.frameInOperational
  split
  · dsimp only
    split
    · exact h.deliver _ (h.same (.checkStreams _) (h.same (.framer s _) hs))
    · exact h.same (.checkStreams _) (h.parsersWait (h.same (.raise _ _) (h.same (.framer s _) hs)))
  · have waits (f : Framer) : P { s with framer := f }.parsersWait := h.parsersWait (h.same (.framer s f) hs)
    dsimp only
    split
    · exact h.same ((State.SameStanding.loseAlignment _).trans (.checkStreams _)) (waits _)
    · exact waits _

theorem KeptByRows.judgeFrame (h : KeptByRows P) {s : State} (octets : List Octet) (hs : P s) :
    P (s.judgeFrame octets) := by
  unfold State.judgeFrame
  split
  · unfold State.frameInSearch
    split <;> exact h.same (.framer s _) hs
  · unfold State.frameInConfirm
    split <;> exact h.same (.framer s _) hs
  · exact h.frameInAligned octets hs
  · exact h.frameInOperational octets hs
  · exact hs

/-- A bit received outside QUIET changes the framer, and may be followed by the judgement of a frame (R3, R4). -/
theorem KeptByRows.takeBit (h : KeptByRows P) {s : State} (b : Bool) (hs : P s) : P (s.takeBit b) := by
  have taken (f : Framer) : P { s with framer := f } := h.same (.framer s f) hs
  have searched (f : Framer) : P (State.searchBit { s with framer := f } b) := by
    unfold State.searchBit
    dsimp only
    split
    · exact taken _
    · exact iteInduction (fun _ => h.judgeFrame _ (taken _)) fun _ => taken _
  have aligned (f : Framer) : P (State.alignedBit { s with framer := f } b) := by
    unfold State.alignedBit
    exact iteInduction (fun _ => h.judgeFrame _ (taken _)) fun _ => taken _
  unfold State.takeBit
  dsimp only
  split
  · exact searched _
  · exact aligned _
  · exact aligned _
  · exact aligned _
  · exact hs

/-! ### Reply waits, grants, wakes and line control -/

theorem KeptByRows.replyExpires (h : KeptByRows P) {s : State} {n : LineNo} {w : ReplyWait}
    (waits : (s.line n).wait = some w) (fresh : w.begun = false) (hs : P s) : P (s.replyExpires n w) := by
  have reported : ((s.noReply n w).line n).wait = some w ∧ P (s.noReply n w) := by
    unfold State.noReply
    split
    · exact ⟨waits, h.same (.raise _ _) hs⟩
    · rename_i d b taken
      exact ⟨by rw [State.modLine_line_self]; exact waits, h.noReply s n w d b taken hs⟩
  exact h.tryBegin n (h.expired _ n w reported.1 fresh reported.2)

theorem KeptByRows.makePollRecord (h : KeptByRows P) {s : State} {c : ChannelNo} {e : Script} {st : Station}
    (eligible : s.eligible c = true) (station : s.grantStation c e = some st) (hs : P s) :
    P (s.makePollRecord c e st) := by
  unfold State.makePollRecord
  split
  · exact hs
  · rename_i d k b taken
    have made := h.granted s c e st d k b eligible station taken hs
    refine h.tryBegin _ ?_
    split
    · exact h.same (.raise _ (.pollTerminal c)) made
    · exact made

theorem KeptByRows.grant (h : KeptByRows P) {s : State} {c : ChannelNo} (eligible : s.eligible c = true) (hs : P s) :
    P (s.grant c) := by
  have pointed : P { s with poll := { s.poll with pointer := c } } := h.same {} hs
  unfold State.grant
  dsimp only
  split
  · exact h.same (.raise _ _) (h.mask _ c pointed)
  · rename_i station
    exact h.makePollRecord eligible station pointed

theorem Line.woken_standing (l : Line) : l.woken.standing = l.standing := by
  unfold Line.woken
  dsimp only
  split <;> rfl

theorem Line.toWatch_standing (l : Line) : l.toWatch.standing = l.standing := by
  unfold Line.toWatch
  split <;> rfl

theorem KeptByRows.wake (h : KeptByRows P) {s : State} (source : WakeSource) (hs : P s) : P (s.wake source) := by
  have woken : P (s.mapLines Line.woken) := h.same (.mapLines s Line.woken_standing) hs
  unfold State.wake
  exact foldl_keeps (fun _ n ht => h.tryBegin n ht) allLines (h.same {} woken)

theorem KeptByRows.lineControl (h : KeptByRows P) (c : Command) {s : State} (hs : P s) :
    P (judgeLineControl c s).state := by
  have receiver (n : LineNo) (a : SwitchAction) : P (s.receiverAction n a) := by
    cases a with
    | none => exact hs
    | on => exact h.receiverOn n hs
    | off => exact h.receiverOff n hs
  have transmitter {t : State} (n : LineNo) (a : SwitchAction) (ht : P t) : P (t.transmitterAction n a) := by
    cases a with
    | none => exact ht
    | on => exact h.tryBegin n (h.transmitterOn t n ht)
    | off => exact h.transmitterOff t n ht
  unfold judgeLineControl
  split
  · split
    · rename_i n rx tx fl _ _ _ _
      have switched := transmitter n tx (receiver n rx)
      show P (if fl = true then State.flush _ n else _)
      exact iteInduction (fun _ => h.flush _ n switched) fun _ => switched
    · exact hs
  · exact hs

/-! ### The other management commands -/

/-- The execution of a command keeps what its judgement keeps (R155). -/
theorem KeptByRows.execute (h : KeptByRows P) {judge : Command → State → Judged}
    (judged : ∀ c t, P t → P (judge c t).state) {s : State} (names : Command → Bool) (hs : P s) :
    P (s.execute names judge) := by
  have answered (t : State) (c : Command) (a : Option (Status × List Octet × Governs)) :
      t.SameStanding (t.respond c a).loadSupervision := by
    cases a <;> exact {}
  unfold State.execute
  split
  · exact hs
  · exact iteInduction (fun _ => h.same (answered _ _ _) (judged _ _ (h.same (.mgmt s _) hs))) fun _ => hs

/-- The commands that act on nothing that a standing law reads. -/
def standingJudges : List (Command → State → Judged) :=
  [judgeReadIdent, judgeReadEvents, judgeSetSupervision, judgeReadBuffer, judgeReadLine, judgeReadStation,
    judgeWriteSlot, judgeReadSlot, judgeSwapBanks, judgeWriteScript, judgeReadScript, judgeReadChannel,
    judgeSetArbitration]

theorem standingJudges_same {judge : Command → State → Judged} (h : judge ∈ standingJudges) (c : Command) (s : State) :
    s.SameStanding (judge c s).state := by
  simp only [standingJudges, List.mem_cons, List.not_mem_nil, or_false] at h
  rcases h with rfl | rfl | rfl | rfl | rfl | rfl | rfl | rfl | rfl | rfl | rfl | rfl | rfl
  all_goals
    simp only [judgeReadIdent, judgeReadEvents, judgeSetSupervision, judgeReadBuffer, judgeReadLine, judgeReadStation,
      judgeWriteSlot, judgeReadSlot, judgeSwapBanks, judgeWriteScript, judgeReadScript, judgeReadChannel,
      judgeSetArbitration]
    repeat' split
    all_goals exact {}

theorem State.SameStanding.clearCounters (s : State) (g : CounterGroup) : s.SameStanding (s.clearCounters g) := by
  cases g with
  | line n => exact .modLine s n (f := fun l => { l with counters := .zero })
  | trunk | discards | management => exact {}

theorem judgeReadCounters_same (c : Command) (s : State) : s.SameStanding (judgeReadCounters c s).state := by
  unfold judgeReadCounters
  split
  · split
    · rename_i g clear _ _
      cases clear with
      | false => exact .refl s
      | true => exact .clearCounters s g
    · exact .refl s
    · exact .refl s
  · exact .refl s

theorem judgeSetLine_same (c : Command) (s : State) : s.SameStanding (judgeSetLine c s).state := by
  unfold judgeSetLine
  split
  · split
    · rename_i n p _ _
      split
      · exact .refl s
      · exact .modLine s n (f := fun l => { l with params := p })
    · exact .refl s
    · exact .refl s
  · exact .refl s

theorem judgeEnterQuiet_same (c : Command) (s : State) : s.SameStanding (judgeEnterQuiet c s).state := by
  unfold judgeEnterQuiet
  split
  · split
    · exact .refl s
    · split
      · exact .refl s
      · exact (State.SameStanding.mapLines s (f := fun l => { l with quietHold := true })).trans {}
  · exact .refl s

theorem State.SameStanding.countersReset (s : State) : s.SameStanding s.countersReset :=
  ((State.SameStanding.mapLines s (f := fun l => { l with counters := .zero })).trans
    (.mapChans _ (f := fun c => { c with missed := 0 }))).trans {}

theorem judgeReset_keeps (sc : Scope) {effect : State → Judged}
    (kept : ∀ t, P t → P (effect t).state) (c : Command) {s : State} (hs : P s) :
    P (judgeReset sc effect c s).state := by
  unfold judgeReset
  split
  · split
    · exact kept s hs
    · exact hs
  · exact hs

theorem KeptByRows.deviceReset (h : KeptByRows P) {s : State} (hs : P s) : P (deviceReset s).state := by
  unfold Machine.deviceReset
  split
  · exact h.same (.mgmt s _) hs
  · exact h.fullReset s _ hs

theorem judgePollControl_keeps (a : PollAction) {effect : ChannelNo → State → Judged}
    (kept : ∀ k t, P t → P (effect k t).state) (c : Command) {s : State} (hs : P s) :
    P (judgePollControl a effect c s).state := by
  unfold judgePollControl
  split
  · split
    · exact hs
    · split
      · exact kept _ s hs
      · exact hs
  · exact hs

theorem KeptByRows.setChannel (h : KeptByRows P) (c : Command) {s : State} (hs : P s) :
    P (judgeSetChannel c s).state := by
  unfold judgeSetChannel
  split
  · split
    · rename_i settings
      split
      · exact hs
      · rename_i idle
        exact h.configure s _ _ (Bool.eq_false_of_not_eq_true idle) (ChannelSettings.ofOctets_eq_some settings).1 hs
    · exact hs
    · exact hs
  · exact hs

theorem KeptByRows.writeStation (h : KeptByRows P) (c : Command) {s : State} (hs : P s) :
    P (judgeWriteStation c s).state := by
  unfold judgeWriteStation
  split
  · split
    · exact hs
    · split
      · exact hs
      · rename_i free
        split
        · exact hs
        · rename_i clear
          exact h.setStation s _ _ (Bool.eq_false_of_not_eq_true free) (fun valid => by rwa [if_pos valid] at clear) hs
  · exact hs

theorem KeptByRows.invalidateStation (h : KeptByRows P) (c : Command) {s : State} (hs : P s) :
    P (judgeInvalidateStation c s).state := by
  unfold judgeInvalidateStation
  split
  · split
    · exact hs
    · rename_i free
      exact h.setStation s _ _ (Bool.eq_false_of_not_eq_true free) (fun valid => nomatch valid) hs
  · exact hs

/-! ### Rows -/

/-- A row whose event cannot arise changes nothing, so only its effect matters (log 1). -/
theorem guarded_keeps {s t : State} {p : Prop} [Decidable p] (hs : P s) (ht : p → P t) : P (if p then t else s) :=
  iteInduction ht fun _ => hs

/-- Every row goes on to a next state, and keeps the law. -/
theorem KeptByRows.exec (h : KeptByRows P) (i : Instr) {s : State} (hs : P s) : ∃ t, exec i s = .next t ∧ P t := by
  have kept {t : State} (ht : P t) : ∃ u, (.next t : Host.Outcome State Fault Refusal) = .next u ∧ P u := ⟨_, rfl, ht⟩
  have executed {judge : Command → State → Judged} {names : Command → Bool} (judged : ∀ c t, P t → P (judge c t).state) :
      ∃ u, (.next (s.execute names judge) : Host.Outcome State Fault Refusal) = .next u ∧ P u :=
    ⟨_, rfl, h.execute judged names hs⟩
  cases i with
  | upstreamFrameStart => exact kept (guarded_keeps hs fun _ => h.same (.startFrame s) hs)
  | upstreamDataSlot =>
    refine kept ?_
    split
    · exact h.dataSlot _ hs
    · exact hs
  | managementSlot => exact kept (guarded_keeps hs fun _ => h.managementSlot hs)
  | quietEntry =>
    refine kept (guarded_keeps hs fun _ => foldl_keeps (fun _ n ht => h.quietDrain n ht) allLines ?_)
    exact h.same (.mapLines _ Line.toWatch_standing) (h.same {} hs)
  | downstreamFrameJudged bits octets =>
    exact kept (guarded_keeps hs fun _ => foldl_keeps (fun _ b ht => h.takeBit b ht) _ hs)
  | characterComplete n samples => exact kept (guarded_keeps hs fun _ => h.completeChar n samples hs)
  | breakHoldEnd n => exact kept (guarded_keeps hs fun _ => h.steady n hs)
  | settleEnd n => exact kept (guarded_keeps hs fun _ => h.steady n hs)
  | gapExpiry n => exact kept (guarded_keeps hs fun _ => h.gapExpires n hs)
  | replyTimeout n =>
    refine kept ?_
    split
    · exact hs
    · rename_i waits
      exact guarded_keeps hs fun due => h.replyExpires waits due.1 hs
  | transmitRestEnd n => exact kept (guarded_keeps hs fun _ => h.tryBegin n (h.steady n hs))
  | transmitRecordEnd n =>
    refine kept (guarded_keeps hs fun sending => ?_)
    split
    · exact hs
    · rename_i queue; exact h.recordEnd s n _ _ sending queue hs
  | pollIntervalExpiry c =>
    refine kept (guarded_keeps hs fun _ => h.same (.modChan s c fun k => ?_) hs)
    unfold Channel.intervalExpires Channel.trigger
    split <;> rfl
  | pollGrant =>
    refine kept ?_
    split
    · exact hs
    · rename_i choice; exact h.grant (State.choice_eligible choice) hs
  | supervisionExpiry =>
    refine kept (guarded_keeps hs fun _ => ?_)
    split
    · exact h.same {} (h.maskAll s hs)
    · exact h.fullReset s _ hs
  | powerOnReset => exact kept (h.same {} (h.fullReset s .power hs))
  | pinReset =>
    refine kept ?_
    split
    · exact hs
    · exact h.same {} (h.fullReset s .pin hs)
  | resetEnd =>
    refine kept ?_
    split
    · exact hs
    · exact h.same {} (h.fullReset s .pin hs)
    · exact h.same {} (h.fullReset s .power hs)
  | trunkWake => exact kept (guarded_keeps hs fun _ => h.wake _ hs)
  | lineWake n => exact kept (guarded_keeps hs fun _ => h.wake _ hs)
  | startEdge n => exact kept (guarded_keeps hs fun _ => h.steady n hs)
  | startBitSample n level => exact kept (guarded_keeps hs fun _ => h.steady n hs)
  | lineLowInWait n => exact kept (guarded_keeps hs fun _ => h.steady n hs)
  | readCounters => exact executed fun c t ht => h.same (judgeReadCounters_same c t) ht
  | setLine => exact executed fun c t ht => h.same (judgeSetLine_same c t) ht
  | enterQuiet => exact executed fun c t ht => h.same (judgeEnterQuiet_same c t) ht
  | resetDevice => exact executed fun c t ht => judgeReset_keeps .device (fun _ hu => h.deviceReset hu) c ht
  | resetLines => exact executed fun c t ht => judgeReset_keeps .lines (fun u hu => h.linesReset u hu) c ht
  | resetCounters => exact executed fun c t ht => judgeReset_keeps .counters (fun u hu => h.same (.countersReset u) hu) c ht
  | setChannel => exact executed fun c t ht => h.setChannel c ht
  | writeStation => exact executed fun c t ht => h.writeStation c ht
  | invalidateStation => exact executed fun c t ht => h.invalidateStation c ht
  | arm => exact executed fun c t ht => judgePollControl_keeps .arm (fun k u hu => h.arm u k hu) c ht
  | mask => exact executed fun c t ht => judgePollControl_keeps .mask (fun k u hu => h.mask u k hu) c ht
  | pollNow =>
    refine executed fun c t ht => judgePollControl_keeps .pollNow (fun k u hu => ?_) c ht
    split
    · exact hu
    · exact h.same (.modChan u k fun x => by unfold Channel.pollNow; split <;> rfl) hu
  | lineControl | receiverOn | receiverOff | transmitterOn | transmitterOff | flush =>
    exact executed fun c t ht => h.lineControl c ht
  | unknownCommand | overlengthCommand => exact executed fun _ _ ht => ht
  | readIdent | readEvents | setSupervision | readBuffer | readLine | readStation | writeSlot | readSlot | swapBanks
  | writeScript | readScript | readChannel | setArbitration =>
    exact executed fun c t ht => h.same (standingJudges_same (by simp [standingJudges]) c t) ht

/-- A millisecond changes the times of timers alone (R120, R136, R173). -/
theorem State.SameStanding.tick (s : State) : s.SameStanding s.tick := by
  have line (l : Line) : l.tick.standing = l.standing := by cases h : l.wait <;> simp [Line.tick, Line.standing, h]
  unfold State.tick
  split
  · exact ((State.SameStanding.mapLines s line).trans (.mapChans _ (f := Channel.tick))).trans {}
  · exact .refl s

/-- Every step keeps the law. -/
theorem KeptByRows.step (h : KeptByRows P) {s t : State} (hs : P s) (ht : step s = .next t) : P t := by
  refine step_keeps (P := P) (fun u cs hu => h.same {} hu) (fun i u v hu hv => ?_) (fun u hu => h.same (.tick u) hu) hs ht
  obtain ⟨w, hw, k⟩ := h.exec i hu
  rw [hw] at hv
  cases hv
  exact k

end

end Sys2Proof.Machine
end

section
/-! SUPPORT. The laws of the Station Table, kept by every step (O56): only its own commands and the full resets change an entry, and only a reverse lookup selects a station. -/

namespace Sys2Proof.Machine

/-! ### Searching the table -/

/-- A search of the table that finds a station finds its entry (R44, R47). -/
theorem State.findStation_some {s : State} {p : Station → Bool} {k : Octet}
    (h : (s.stations.toList.findIdx? p).map natOctet = some k) : p (s.station k) = true := by
  obtain ⟨i, found, rfl⟩ := Option.map_eq_some_iff.mp h
  obtain ⟨inside, hit, -⟩ := List.findIdx?_eq_some_iff_getElem.mp found
  have inside : i < 256 := by simpa using inside
  have entry : s.station (natOctet i) = s.stations[i] := by
    simp only [State.station, toNat_natOctet (show i ≤ 255 by omega)]
  rw [entry]
  exact hit

/-- A search of the table that finds nothing has looked at every entry (R44, R47). -/
theorem State.findStation_none {s : State} {p : Station → Bool}
    (h : (s.stations.toList.findIdx? p).map natOctet = none) (k : Octet) : p (s.station k) = false := by
  simp only [Option.map_eq_none_iff, List.findIdx?_eq_none_iff] at h
  exact h (s.station k) (by simp [State.station])

/-- The entry `j` is valid and holds a line and local address (R46). -/
def State.Holds (s : State) (j : Octet) (e : Station) : Prop :=
  (s.station j).valid = true ∧ (s.station j).line = e.line ∧ (s.station j).localAddr = e.localAddr

/-- What a write of station `k` conflicts with is another station that holds the entry's line and local address (R47). -/
theorem State.conflict_some {s : State} {k j : Octet} {e : Station} (h : s.conflict k e = some j) :
    j ≠ k ∧ s.Holds j e := by
  have hit := State.findStation_some (s := s.setStation k { e with valid := false }) h
  rw [State.setStation_station] at hit
  split at hit
  · simp at hit
  · rename_i other
    simp only [Bool.and_eq_true, beq_iff_eq, and_assoc] at hit
    exact ⟨Ne.symm other, hit⟩

/-- Without a conflict no other station holds the entry's line and local address (R46). -/
theorem State.conflict_none {s : State} {k j : Octet} {e : Station} (h : s.conflict k e = none) (other : j ≠ k) :
    ¬s.Holds j e := by
  have miss := State.findStation_none (s := s.setStation k { e with valid := false }) h j
  rw [State.setStation_station, if_neg (Ne.symm other)] at miss
  rintro ⟨valid, line, addr⟩
  simp [valid, line, addr] at miss

/-! ### What selects a station -/

/-- From `s` to `t` no entry changes, and each line's selection is the one it had, or none, or one that a reverse
lookup finds (R35, R44). -/
structure State.SelectsFrom (s t : State) : Prop where
  stations : t.stations = s.stations
  selections : ∀ n k, (t.line n).selection = some k → (s.line n).selection = some k ∨ ∃ a, s.reverse n a = some k

theorem State.SelectsFrom.refl (s : State) : s.SelectsFrom s := ⟨rfl, fun _ _ h => .inl h⟩

theorem State.SelectsFrom.trans {s t u : State} (h : s.SelectsFrom t) (k : t.SelectsFrom u) : s.SelectsFrom u where
  stations := k.stations.trans h.stations
  selections n j hj := by
    rcases k.selections n j hj with kept | ⟨a, found⟩
    · exact h.selections n j kept
    · exact .inr ⟨a, by simpa only [State.reverse, h.stations] using found⟩

/-- A change beside the lines and the table. -/
theorem State.SelectsFrom.aside {s t : State} (lines : t.lines = s.lines := by rfl)
    (stations : t.stations = s.stations := by rfl) : s.SelectsFrom t :=
  ⟨stations, fun n k h => .inl (by simpa only [State.line, lines] using h)⟩

theorem State.SameStanding.selectsFrom {s t : State} (h : s.SameStanding t) : s.SelectsFrom t where
  stations := h.stations
  selections n k hk := by
    have selection : (t.line n).standing.selection = (s.line n).standing.selection := by rw [h.lines n]
    exact .inl (selection.symm.trans hk)

/-- A change of a line that leaves its selection alone. -/
theorem State.SelectsFrom.modLine (s : State) (n : LineNo) {f : Line → Line}
    (h : ∀ l, (f l).selection = l.selection := by exact fun _ => rfl) : s.SelectsFrom (s.modLine n f) where
  stations := rfl
  selections m k hk := by
    rw [State.modLine_line] at hk
    split at hk
    · rename_i e
      rw [h] at hk
      exact .inl (e ▸ hk)
    · exact .inl hk

theorem State.SelectsFrom.select {s : State} {n : LineNo} {k : Option Octet}
    (found : ∀ j, k = some j → ∃ a, s.reverse n a = some j) : s.SelectsFrom (s.select n k) where
  stations := rfl
  selections m j hj := by
    rw [State.select, State.modLine_line] at hj
    split at hj
    · rename_i e
      exact .inr (e ▸ found j hj)
    · exact .inl hj

/-! ### Line work -/

theorem Line.settleDrain_selection (l : Line) : l.settleDrain.selection = l.selection := by
  unfold Line.settleDrain
  split <;> rfl

theorem Line.waitExpired_selection (w : ReplyWait) (l : Line) : (l.waitExpired w).selection = l.selection :=
  Line.settleDrain_selection _

theorem Line.closeOpen_selection (c : CloseCause) (l : Line) : (l.closeOpen c).selection = l.selection := by
  unfold Line.closeOpen
  split <;> rfl

theorem State.SelectsFrom.pollEnd (s : State) (c : Octet) (o : PollOutcome) : s.SelectsFrom (s.pollEnd c o) :=
  .aside (State.pollEnd_lines s c o) (State.Beside.pollEnd s c o).stations

theorem State.SelectsFrom.endResponse (s : State) (n : LineNo) : s.SelectsFrom (s.endResponse n) := by
  unfold State.endResponse
  split
  · exact .refl s
  · refine State.SelectsFrom.trans (.modLine s n fun l => ?_) (.pollEnd _ _ _)
    exact Line.settleDrain_selection _

theorem State.SelectsFrom.closeRecord (s : State) (n : LineNo) (c : CloseCause) :
    s.SelectsFrom (s.closeRecord n c) := by
  have closed := State.SelectsFrom.modLine s n (Line.closeOpen_selection c)
  have lost : s.SelectsFrom (if c = .truncated then (s.modLine n (Line.closeOpen c)).raise (.lineLoss n)
      else s.modLine n (Line.closeOpen c)) :=
    iteInduction (motive := fun t => s.SelectsFrom t) (fun _ => closed.trans .aside) fun _ => closed
  unfold State.closeRecord
  split
  · exact .refl s
  · exact iteInduction (motive := fun t => s.SelectsFrom t) (fun _ => lost) fun _ => lost.trans (.endResponse _ n)

theorem State.SelectsFrom.clearCont (s : State) (n : LineNo) : s.SelectsFrom (s.clearCont n) := by
  have cleared := State.SelectsFrom.modLine s n (f := fun l => { l with cont := none, gapTimer := none })
  unfold State.clearCont
  split
  · exact .refl s
  · exact iteInduction (motive := fun t => s.SelectsFrom t) (fun _ => cleared.trans (.endResponse _ n)) fun _ => cleared

theorem State.SelectsFrom.openRecord {s t : State} {n : LineNo} {st : Option Octet} {m : Bool}
    (h : s.openRecord n st m = some t) : s.SelectsFrom t := by
  unfold State.openRecord at h
  split at h
  · split at h <;> cases h
    exact (State.SelectsFrom.aside (s := s)).trans (.modLine _ n)
  · cases h

theorem State.SelectsFrom.growRecord {s t : State} {n : LineNo} {r : UpRecord} (h : s.growRecord n r = some t) :
    s.SelectsFrom t := by
  unfold State.growRecord at h
  split at h
  · split at h <;> cases h
    exact (State.SelectsFrom.aside (s := s)).trans (.modLine _ n)
  · cases h

theorem State.SelectsFrom.appendChar (s : State) (n : LineNo) (e : StageEntry) : s.SelectsFrom (s.appendChar n e) := by
  unfold State.appendChar
  split
  · exact .refl s
  · rename_i r _
    have stored := (State.SelectsFrom.aside (s := s)
      (t := { s with buffer := s.buffer.storeOctet r.chain r.length e.value })).trans
        (.modLine _ n (f := fun l => { l with openRec := some (r.append e) }))
    exact iteInduction (motive := fun t => s.SelectsFrom t) (fun _ => stored.trans (.closeRecord _ n _)) fun _ => stored

/-- A law that no change of the table's selections breaks is kept by line work. -/
theorem KeptByWork.of_selectsFrom {P : State → Prop} (kept : ∀ s t, s.SelectsFrom t → P s → P t) : KeptByWork P where
  same h := kept _ _ h.selectsFrom
  close s n c := kept _ _ (.closeRecord s n c)
  clear s n := kept _ _ (.clearCont s n)
  opens _ _ _ _ _ _ _ hs ht := kept _ _ (.openRecord ht) hs
  grow _ _ _ _ _ hs ht := kept _ _ (.growRecord ht) hs
  append s n e := kept _ _ (.appendChar s n e)
  select _ _ _ found := kept _ _ (.select found)
  starve s n := kept _ _ ((State.SelectsFrom.closeRecord s n .truncated).trans (.modLine _ n))
  rouse s n := kept _ _ (.modLine s n)
  begins s n _ _ := kept _ _ (.modLine s n)
  stopGap s n _ _ := kept _ _ (.modLine s n)

/-! ### Rows -/

section
variable {P : State → Prop}

/-- Channels told of the ends of their records (R148). -/
theorem State.SelectsFrom.pollEnds (gone : List DownRecord) (o : PollOutcome) (s : State) :
    s.SelectsFrom (gone.foldl (fun (u : State) (x : DownRecord) => u.pollEnd x.channel o) s) :=
  List.foldlRecOn gone _ (motive := fun t => s.SelectsFrom t) (.refl s) fun _ h _ _ => h.trans (.pollEnd _ _ _)

theorem KeptByWork.recordEnd (h : KeptByWork P) (kept : ∀ s t, s.SelectsFrom t → P s → P t) {s : State} {n : LineNo}
    (r : DownRecord) (rest : List DownRecord) (hs : P s) : P (s.recordEnd n r rest) := by
  have released : P ((s.modLine n (Line.elementEnded rest)).release r.chain r.desc) :=
    h.release (kept _ _ ((State.SelectsFrom.modLine s n (f := Line.elementEnded rest)).trans .aside) hs)
  unfold State.recordEnd
  dsimp only
  split
  · exact kept _ _ (.modLine _ n) released
  · exact kept _ _ ((State.SelectsFrom.modLine _ n Line.settleDrain_selection).trans (.pollEnd _ _ _)) released

theorem KeptByWork.flush (h : KeptByWork P) (kept : ∀ s t, s.SelectsFrom t → P s → P t) {s : State} (n : LineNo)
    (hs : P s) : P (s.flush n) := by
  unfold State.flush
  split
  · exact hs
  · exact kept _ _ ((State.SelectsFrom.pollEnds _ .abandoned _).trans (.modLine _ n Line.settleDrain_selection))
      (h.wakePass (kept _ _ .aside (kept _ _ (.modLine s n (f := fun l => { l with downQueue := l.flushKept })) hs)))

theorem State.SelectsFrom.transmitterOff (s : State) (n : LineNo) : s.SelectsFrom (s.transmitterOff n) :=
  .modLine s n fun l => by
    split
    · exact Line.settleDrain_selection _
    · rfl
    · rfl

theorem State.SelectsFrom.linesReset (s : State) : s.SelectsFrom s.linesReset where
  stations := by
    unfold State.linesReset State.linesResetParser
    dsimp only
    split <;> rfl
  selections n k hk := by
    have line : s.linesReset.line n = (s.mapLines Line.linesReset).line n :=
      congrArg (fun v : Vector Line 8 => v[n]) (State.linesResetParser_lines _)
    rw [line, State.mapLines_line] at hk
    cases hk

/-- A law that no change of the table's selections breaks, nor a write of the table, nor a full reset, every step
keeps. -/
theorem KeptByRows.of_selectsFrom (kept : ∀ s t, s.SelectsFrom t → P s → P t)
    (setStation : ∀ s k e, s.referenced k = false → (e.valid = true → s.conflict k e = none) → P s → P (s.setStation k e))
    (fullReset : ∀ s c, P s → P (s.fullReset c)) : KeptByRows P where
  toKeptByWork := .of_selectsFrom kept
  claim _ _ _ _ _ _ _ _ _ := kept _ _ .aside
  grown _ _ _ _ _ _ _ := kept _ _ .aside
  stored _ _ _ _ _ := kept _ _ .aside
  dropped _ _ _ _ _ _ := kept _ _ .aside
  queued s r _ _ _ _ := kept _ _ ((State.SelectsFrom.aside (s := s)).trans (.modLine _ r.line))
  sent s n _ rest _ := kept _ _ ((State.SelectsFrom.modLine s n (f := fun l => { l with upQueue := rest })).trans .aside)
  recordEnd _ _ r rest _ _ := (KeptByWork.of_selectsFrom kept).recordEnd kept r rest
  noReply s n _ _ _ _ := kept _ _ ((State.SelectsFrom.aside (s := s)).trans (.modLine _ n))
  expired s n w _ _ := kept _ _ ((State.SelectsFrom.modLine s n (Line.waitExpired_selection w)).trans (.pollEnd _ _ _))
  transmitterOn s n := kept _ _ (.modLine s n)
  transmitterOff s n := kept _ _ (.transmitterOff s n)
  flush _ n := (KeptByWork.of_selectsFrom kept).flush kept n
  granted s c e st d k _ _ _ _ :=
    kept _ _ ((State.SelectsFrom.modLine s st.line
      (f := fun l => { l with downQueue := l.downQueue ++ [pollRecord c e st d k] })).trans .aside)
  mask _ _ := kept _ _ .aside
  maskAll _ := kept _ _ .aside
  arm _ _ := kept _ _ .aside
  configure _ _ _ _ _ := kept _ _ .aside
  setStation := setStation
  fullReset := fullReset
  linesReset s := kept _ _ (.linesReset s)

end

/-! ### The two laws -/

/-- An entry is written only where no other valid entry holds its line and local address (R46, R47). -/
theorem State.StationsUnique.setStation {s : State} {k : Octet} {e : Station}
    (clear : e.valid = true → s.conflict k e = none) (h : s.StationsUnique) : (s.setStation k e).StationsUnique := by
  have apart {j : Octet} (valid : e.valid = true) (other : j ≠ k) : ¬s.Holds j e := State.conflict_none (clear valid) other
  intro i j
  rw [State.setStation_station, State.setStation_station]
  split
  · rename_i ki
    split
    · rename_i kj
      exact fun _ _ _ _ => ki.symm.trans kj
    · rename_i other
      exact fun valid held line addr => (apart valid (Ne.symm other) ⟨held, line.symm, addr.symm⟩).elim
  · rename_i other
    split
    · exact fun held valid line addr => (apart valid (Ne.symm other) ⟨held, line, addr⟩).elim
    · exact h i j

theorem stationsUnique_kept : KeptByRows State.StationsUnique :=
  .of_selectsFrom
    (fun s t h hs i j => by
      have entry : t.station = s.station := funext fun k => by simp only [State.station, h.stations]
      rw [entry]
      exact hs i j)
    (fun _ _ _ _ clear hs => hs.setStation clear)
    fun s c _ i _ valid => by
      have reset : (s.fullReset c).station i = .reset := reset_station i
      rw [reset] at valid
      cases valid

/-- A station that a line has selected is referenced, so its entry is not written (R45). -/
theorem State.SelectionsHold.setStation {s : State} {k : Octet} (e : Station) (free : s.referenced k = false)
    (h : s.SelectionsHold) : (s.setStation k e).SelectionsHold := by
  intro n j selected
  have other : k ≠ j := by
    rintro rfl
    have named := (s.referenced_iff k).mpr ⟨n, .inr selected⟩
    rw [free] at named
    cases named
  rw [State.setStation_station, if_neg other]
  exact h n j selected

theorem selectionsHold_kept : KeptByRows State.SelectionsHold :=
  .of_selectsFrom
    (fun s t h hs n k selected => by
      have entry : t.station k = s.station k := by simp only [State.station, h.stations]
      rw [entry]
      rcases h.selections n k selected with kept | ⟨a, found⟩
      · exact hs n k kept
      · obtain ⟨valid, line, -, capture⟩ := State.reverse_some found
        exact ⟨valid, line, capture⟩)
    (fun _ _ e free _ hs => hs.setStation e free)
    fun s c _ n _ selected => by
      have reset : (s.fullReset c).line n = .reset := reset_line n
      rw [reset] at selected
      cases selected

/-- Settles O56, by `KeptByRows.step`: an entry is written only when it is neither referenced nor in conflict, and a
selection comes from a reverse lookup alone. -/
theorem stepKeepsTheStationLaws : Obligations.StepKeepsTheStationLaws :=
  ⟨fun _ _ => stationsUnique_kept.step, fun _ _ => selectionsHold_kept.step⟩

end Sys2Proof.Machine
end

section
/-! SUPPORT. The judgement of downstream records (O15): a header's checks in their order, and the append. -/

namespace Sys2Proof.Machine

/-! ### The checks of a header -/

theorem Line.refusesRecords_iff (l : Line) : l.refusesRecords = true ↔ l.txMode ≠ .on := by
  simp [Line.refusesRecords]

/-- The first five checks of a header, in order (R110). -/
theorem State.checkHeader_eq (s : State) (k : DownKind) (len : Nat) (station : Octet) :
    s.checkHeader k len station =
      if len = 0 ∧ k ≠ .sendBreak then .error .badLength
      else if (s.station station).valid = false then .error .unknownStation
      else if (s.station station).down = false then .error .downDisabled
      else if (s.line (s.station station).line).txMode ≠ .on then .error .lineOff
      else if 16 ≤ (s.line (s.station station).line).downQueue.length then .error .queueFull
      else .ok (s.station station) := by
  unfold State.checkHeader
  refine if_congr Iff.rfl rfl ?_
  cases valid : (s.station station).valid with
  | false => simp [State.forward, valid]
  | true =>
    simp only [State.forward, valid, if_true, Bool.true_eq_false, if_false]
    exact if_congr (by simp) rfl (if_congr (Line.refusesRecords_iff _) rfl rfl)

/-- A header that a check refuses is discarded, and its record is skipped; one that it passes goes on to the checks
behind it (R110, R115). -/
theorem State.feedDown_check {s : State} {k : DownKind} {len : Nat} {station : Octet} {reason : Discard}
    {fails passed : Prop} [Decidable fails] {behind : Except Discard Station}
    (reading : s.parser.parse = .header k (some len))
    (checks : s.checkHeader k len station = if fails then .error reason else behind)
    (passes : s.checkHeader k len station = behind → passed) :
    if fails then s.feedDown station = s.discardDown reason (afterSkip len) else passed := by
  split
  · rename_i fails
    rw [if_pos fails] at checks
    simp only [State.feedDown, reading, State.headerComplete, checks]
  · rename_i holds
    rw [if_neg holds] at checks
    exact passes checks

/-- The record that a header makes of a station's entry (R108, R110). -/
def DownKind.headEndRecord (k : DownKind) (len : Nat) (station : Octet) (e : Station) (desc : Nat) : DownRecord :=
  { desc := desc, chain := [], origin := .headEnd, brk := k == .sendBreak, reply := k.replyFlag e
    station := station, line := e.line, localAddr := e.localAddr, channel := 0xFF, length := len }

/-- A header that passes its checks takes a descriptor, or is discarded for want of one (R110). -/
theorem State.feedDown_accepted {s : State} {k : DownKind} {len : Nat} {station : Octet} {e : Station}
    (reading : s.parser.parse = .header k (some len)) (passes : s.checkHeader k len station = .ok e) :
    s.feedDown station =
      match s.buffer.freeDescs with
      | [] => s.discardDown .noBuffer (afterSkip len)
      | i :: rest =>
        let t : State := { s with buffer := { s.buffer with freeDescs := rest } }
        if len = 0 then t.appendDown (k.headEndRecord len station e i)
        else t.setParse (.payload (k.headEndRecord len station e i) 0) := by
  simp only [State.feedDown, reading, State.headerComplete, passes, Buffer.takeDesc]
  cases s.buffer.freeDescs <;> rfl

/-! ### The append -/

theorem State.appendDown_lineOff {s : State} {r : DownRecord} (off : (s.line r.line).txMode ≠ .on) :
    s.appendDown r = (s.discardDown .lineOff .between).release r.chain r.desc := by
  rw [State.appendDown, if_pos ((Line.refusesRecords_iff _).mpr off)]

theorem State.appendDown_full {s : State} {r : DownRecord} (on : (s.line r.line).txMode = .on)
    (full : Config.downQueueSize ≤ (s.line r.line).downQueue.length) :
    s.appendDown r = (s.discardDown .queueFull .between).release r.chain r.desc := by
  rw [State.appendDown, if_neg (fun off => (Line.refusesRecords_iff _).mp off on), if_pos full]

theorem State.appendDown_queued {s : State} {r : DownRecord} (on : (s.line r.line).txMode = .on)
    (room : (s.line r.line).downQueue.length < Config.downQueueSize) :
    s.appendDown r =
      ((s.setParse .between).modLine r.line fun l => { l with downQueue := l.downQueue ++ [r] }).tryBegin r.line := by
  rw [State.appendDown, if_neg (fun off => (Line.refusesRecords_iff _).mp off on), if_neg (Nat.not_le.mpr room)]

/-- Settles O15: a header by its checks in order (`State.checkHeader_eq`), and the append by its line's transmitter and
queue. -/
theorem downstreamRecordsAreJudged : Obligations.DownstreamRecordsAreJudged := by
  refine ⟨fun s k len station reading => ?_,
    fun s r => ⟨State.appendDown_lineOff, State.appendDown_full, State.appendDown_queued⟩⟩
  intro e after discard d
  refine State.feedDown_check reading (s.checkHeader_eq k len station) fun lengthOk => ?_
  refine State.feedDown_check reading lengthOk fun known => ?_
  refine State.feedDown_check reading known fun permitted => ?_
  refine State.feedDown_check reading permitted fun lineOn => ?_
  refine State.feedDown_check reading lineOn fun accepted => ?_
  have fed := State.feedDown_accepted reading accepted
  split
  · rename_i empty
    rw [empty] at fed
    exact fed
  · rename_i i rest free
    rw [free] at fed
    exact ⟨fun positive => fed.trans (if_neg (Nat.ne_of_gt positive)), fun zero => fed.trans (if_pos zero)⟩

end Sys2Proof.Machine
end

section
/-! SUPPORT. The commands of the Station Table (O34): what Write Station, Invalidate Station and Read Station come to, by the table and its references. -/

namespace Sys2Proof.Machine

/-! ### References -/

/-- A line is in a station's reply wait or has it selected (R45). -/
def State.Named (s : State) (k : Octet) : Prop :=
  ∃ n : LineNo, (∃ w, (s.line n).wait = some w ∧ w.station = k) ∨ (s.line n).selection = some k

theorem State.referenced_of_named {s : State} {k : Octet} (h : s.Named k) : s.referenced k = true :=
  (s.referenced_iff k).mpr h

theorem State.referenced_of_not_named {s : State} {k : Octet} (h : ¬s.Named k) : s.referenced k = false :=
  Bool.eq_false_of_not_eq_true fun named => h ((s.referenced_iff k).mp named)

/-! ### Write Station -/

/-- The one valid entry that holds a new entry's line and local address is what a write conflicts with (R47). -/
theorem State.conflict_eq {s : State} {k j : Octet} {e : Station} (unique : s.StationsUnique) (other : j ≠ k)
    (holds : s.Holds j e) : s.conflict k e = some j := by
  cases found : s.conflict k e with
  | none => exact absurd holds (State.conflict_none found other)
  | some i =>
    obtain ⟨-, valid, line, addr⟩ := State.conflict_some found
    obtain ⟨validJ, lineJ, addrJ⟩ := holds
    rw [unique i j valid validJ (line.trans lineJ.symm) (addr.trans addrJ.symm)]

/-- Without another valid entry at its line and local address an entry conflicts with none (R47). -/
theorem State.conflict_clear {s : State} {k : Octet} {e : Station} (clear : ∀ j, j ≠ k → ¬s.Holds j e) :
    s.conflict k e = none := by
  cases found : s.conflict k e with
  | none => rfl
  | some j =>
    obtain ⟨other, holds⟩ := State.conflict_some found
    exact absurd holds (clear j other)

section
variable {s : State} {rest : List Command} {tag station : Octet}

section
variable {e : Station} (due : s.Due (.plain 0x20 tag (station :: e.octets)) rest)
include due

/-- A station that is named is not written (R45). -/
theorem execWriteStation_busy (named : s.Named station) :
    exec .writeStation s =
      .next (s.answered rest ((Command.plain 0x20 tag (station :: e.octets)).answer .busy [])) := by
  have referenced := State.referenced_of_named (s := s.dequeued rest) named
  refine congrArg Host.Outcome.next (State.execute_refused due (hasCode_plain ..) ?_)
  simp only [judgeWriteStation, Command.plain, Station.octets, Station.ofOctets_octets, referenced, if_true]

/-- A new entry that is not valid, or whose line and local address no other entry holds, replaces the station's entry
(R46). -/
theorem execWriteStation_ok (free : ¬s.Named station) (clear : e.valid = false ∨ ∀ j, j ≠ station → ¬s.Holds j e) :
    exec .writeStation s =
      .next ((s.setStation station e).answered rest
        ((Command.plain 0x20 tag (station :: e.octets)).answer .ok [])) := by
  have unreferenced := State.referenced_of_not_named (s := s.dequeued rest) free
  have absent : (if e.valid then (s.dequeued rest).conflict station e else none) = none := by
    rcases clear with invalid | clear
    · rw [invalid]; rfl
    · rw [State.conflict_clear (s := s.dequeued rest) clear, ite_self]
  have judged : judgeWriteStation (.plain 0x20 tag (station :: e.octets)) (s.dequeued rest) =
      accept ((s.dequeued rest).setStation station e) [] := by
    simp only [judgeWriteStation, Command.plain, Station.octets, Station.ofOctets_octets, unreferenced, absent,
      Bool.false_eq_true, if_false]
  exact congrArg Host.Outcome.next (State.execute_accepted due (hasCode_plain ..) judged)

/-- A valid new entry whose line and local address another entry holds is refused with that entry's number (R47). -/
theorem execWriteStation_conflict {k : Octet} (free : ¬s.Named station) (valid : e.valid = true)
    (unique : s.StationsUnique) (other : k ≠ station) (holds : s.Holds k e) :
    exec .writeStation s =
      .next (s.answered rest ((Command.plain 0x20 tag (station :: e.octets)).answer .conflict [k])) := by
  have unreferenced := State.referenced_of_not_named (s := s.dequeued rest) free
  have found : (if e.valid then (s.dequeued rest).conflict station e else none) = some k := by
    rw [if_pos valid, State.conflict_eq (s := s.dequeued rest) unique other holds]
  have judged : judgeWriteStation (.plain 0x20 tag (station :: e.octets)) (s.dequeued rest) =
      { state := s.dequeued rest, reply := some (.conflict, [k], .nothing) } := by
    simp only [judgeWriteStation, Command.plain, Station.octets, Station.ofOctets_octets, unreferenced, found,
      Bool.false_eq_true, if_false]
  refine congrArg Host.Outcome.next ((State.execute_due due (hasCode_plain ..)).trans ?_)
  rw [judged]
  rfl

end

/-! ### Invalidate Station -/

theorem execInvalidateStation_busy (due : s.Due (.plain 0x21 tag [station]) rest) (named : s.Named station) :
    exec .invalidateStation s = .next (s.answered rest ((Command.plain 0x21 tag [station]).answer .busy [])) :=
  congrArg Host.Outcome.next (State.execute_refused due (hasCode_plain ..)
    (if_pos (State.referenced_of_named (s := s.dequeued rest) named)))

theorem execInvalidateStation_ok (due : s.Due (.plain 0x21 tag [station]) rest) (free : ¬s.Named station) :
    exec .invalidateStation s =
      .next ((s.setStation station { s.station station with valid := false }).answered rest
        ((Command.plain 0x21 tag [station]).answer .ok [])) := by
  have unreferenced : ¬(s.dequeued rest).referenced station = true := by
    rw [State.referenced_of_not_named (s := s.dequeued rest) free]
    decide
  exact congrArg Host.Outcome.next (State.execute_accepted due (hasCode_plain ..) (if_neg unreferenced))

end

/-! ### Read Station -/

/-- The bits that a list of lines sets, one for each line of a kind (R190). -/
theorem lineBits_getLsbD (p : LineNo → Bool) (ns : List LineNo) (o : Octet) (n : LineNo) :
    (ns.foldl (fun (o : Octet) (m : LineNo) => if p m then o ||| ((0x01 : Octet) <<< m.val) else o) o).getLsbD n.val =
      (o.getLsbD n.val || (p n && ns.contains n)) := by
  have bit : ∀ m k : LineNo, ((0x01 : Octet) <<< m.val).getLsbD k.val = (k == m) := by decide
  induction ns generalizing o with
  | nil => simp
  | cons m ns ih =>
    have first : (if p m then o ||| ((0x01 : Octet) <<< m.val) else o).getLsbD n.val =
        (o.getLsbD n.val || (p n && n == m)) := by
      cases same : n == m with
      | true =>
        rw [beq_iff_eq.mp same]
        split
        · rename_i hit; simp [hit]
        · rename_i miss; simp [miss]
      | false =>
        split
        · simp only [BitVec.getLsbD_or, bit, same, Bool.and_false]
        · simp
    rw [List.foldl_cons, ih, first, List.contains_cons, Bool.or_assoc, ← Bool.and_or_distrib_left]

/-- A station's waiting lines, bit by bit (R49, R190). -/
theorem State.waitingLines_iff (s : State) (k : Octet) (n : LineNo) :
    (s.waitingLines k).getLsbD n.val = true ↔ ∃ w, (s.line n).wait = some w ∧ w.station = k := by
  unfold State.waitingLines
  rw [lineBits_getLsbD (fun m => (s.line m).waitsFor k), ← Line.waitsFor_iff]
  simp [mem_allLines]

theorem State.selectingLine_none {s : State} {k : Octet} (h : ∀ n : LineNo, (s.line n).selection ≠ some k) :
    s.selectingLine k = 0xFF := by
  rw [State.selectingLine, find?_allLines_none fun n => beq_false_of_ne (h n)]

/-- The line that alone has a station selected (R49, R190). -/
theorem State.selectingLine_eq {s : State} {k : Octet} {n : LineNo} (selected : (s.line n).selection = some k)
    (alone : ∀ m : LineNo, (s.line m).selection = some k → m = n) : s.selectingLine k = natOctet n.val := by
  rw [State.selectingLine, find?_allLines (p := fun m => (s.line m).selection == some k) (n := n)
    (beq_iff_eq.mpr selected) fun m before => beq_false_of_ne fun h => before.ne (alone m h)]

theorem execReadStation_ok {s : State} {rest : List Command} {tag station : Octet}
    (due : s.Due (.plain 0x22 tag [station]) rest) :
    exec .readStation s =
      .next (s.answered rest ((Command.plain 0x22 tag [station]).answer .ok
        ((s.station station).octets ++ [s.waitingLines station, s.selectingLine station]))) :=
  congrArg Host.Outcome.next (State.execute_accepted due (hasCode_plain ..) rfl)

/-- Settles O34: Write Station and Invalidate Station by the table's references and conflicts, and Read Station by its
waiting lines and its selecting line. -/
theorem stationCommands : Obligations.StationCommands := by
  refine ⟨fun s rest tag station e c hc due => ?write, fun s rest tag station =>
    ⟨fun c hc due => ?invalidate, fun c hc due => ?read⟩⟩ <;> subst hc
  case write =>
    refine ⟨execWriteStation_busy due, fun free clear => execWriteStation_ok due free (clear.imp_right fun h j other => ?_),
      fun k free valid unique other validK line addr =>
        execWriteStation_conflict due free valid unique other ⟨validK, line, addr⟩⟩
    exact fun ⟨held, line, addr⟩ => h j other held line addr
  case invalidate =>
    refine ⟨execInvalidateStation_busy due, fun free => execInvalidateStation_ok due ?_⟩
    rintro ⟨n, ⟨w, waits, awaited⟩ | selected⟩
    · exact (free n).1 w waits awaited
    · exact (free n).2 selected
  case read =>
    exact ⟨_, _, execReadStation_ok due, s.waitingLines_iff station, State.selectingLine_none,
      fun n => State.selectingLine_eq⟩

end Sys2Proof.Machine
end

section
/-! SUPPORT. The two expiries of a line: the gap timer's (O25) and an unbegun reply wait's (O29). -/

namespace Sys2Proof.Machine

/-! ### The gap timer -/

/-- A line at the expiry of its gap timer: the open record joins the upstream queue as it stands, the continuation
marking is cleared, and the timer stops (R58, R59, R65). -/
def Line.gapExpired (l : Line) : Line :=
  match l.openRec with
  | none => { l with cont := none, gapTimer := none }
  | some r =>
    { l with
      openRec := none, cont := none, gapTimer := none, upQueue := l.upQueue ++ [r]
      counters := { l.counters with recordsClosed := satInc l.counters.recordsClosed } }

section
variable {s : State} {n : LineNo}

theorem State.gapExpired_closes {r : UpRecord} (opened : (s.line n).openRec = some r)
    (unmarked : (s.line n).cont = none) :
    s.modLine n Line.gapExpired = s.modLine n fun l =>
      { l with
        openRec := none, gapTimer := none, upQueue := l.upQueue ++ [r]
        counters := { l.counters with recordsClosed := satInc l.counters.recordsClosed } } :=
  State.modLine_congr s n (by simp only [Line.gapExpired, opened, unmarked])

theorem State.gapExpired_clears (closed : (s.line n).openRec = none) :
    s.modLine n Line.gapExpired = s.modLine n fun l => { l with cont := none, gapTimer := none } :=
  State.modLine_congr s n (by simp only [Line.gapExpired, closed])

/-- The expiry ends a response only by closing a record or clearing the marking of a response (R67). -/
theorem State.gapExpires_calm
    (calm : (s.line n).respMark = none ∨
      ¬((s.line n).openRec.isSome = true ∨ ∃ m, (s.line n).cont = some m ∧ m.kind = .response)) :
    s.gapExpires n = (s.modLine n Line.gapExpired).tryBegin n := by
  rw [State.gapExpires, (s.turnAway_line n).1 calm, State.modLine_modLine]
  refine congrArg (State.tryBegin · n) (State.modLine_congr s n ?_)
  cases opened : (s.line n).openRec <;> simp only [Line.gapExpired, Function.comp_apply, opened]

/-- The expiry closes the record of a response, or clears its marking, and so ends the response (R67, R121). -/
theorem State.gapExpires_answers {w : WaitName} (mark : (s.line n).respMark = some w)
    (ends : (s.line n).openRec.isSome = true ∨ ∃ m, (s.line n).cont = some m ∧ m.kind = .response) :
    s.gapExpires n = ((s.modLine n Line.gapExpired).responseOver n w).tryBegin n := by
  rw [State.gapExpires, (s.turnAway_line n).2 w mark ends, State.responseOver_modLine _ _ _ _ fun l => by
    rw [Line.settleDrain_eq, Line.settleDrain_eq], State.modLine_modLine]
  refine congrArg (fun t : State => (t.responseOver n w).tryBegin n) (State.modLine_congr s n ?_)
  cases opened : (s.line n).openRec <;> simp only [Line.gapExpired, Function.comp_apply, opened]

/-- The gap timer expires only while it runs (R58). -/
theorem exec_gapExpiry (runs : (s.line n).gapTimer.isSome = true) : exec (.gapExpiry n) s = .next (s.gapExpires n) :=
  congrArg Host.Outcome.next (if_pos runs)

end

/-- Settles O25: an expiry that ends a response is `State.gapExpires_answers`, and any other `State.gapExpires_calm`. -/
theorem gapExpiryClosesTheRecord : Obligations.GapExpiryClosesTheRecord := by
  intro s n runs
  rw [exec_gapExpiry runs]
  refine ⟨fun r opened unmarked => ?record, fun m closed cont data => ?marking,
    fun m w closed cont kind mark => ?response⟩
  case record =>
    have line := State.gapExpired_closes opened unmarked
    refine ⟨fun calm => ?_, fun w mark => ?_⟩
    · rw [State.gapExpires_calm (.inl calm), line]
    · rw [State.gapExpires_answers mark (.inl (opened ▸ rfl)), line]
      rfl
  case marking =>
    have calm : ¬((s.line n).openRec.isSome = true ∨ ∃ m, (s.line n).cont = some m ∧ m.kind = .response) := by
      simp [closed, cont, data]
    rw [State.gapExpires_calm (.inr calm), State.gapExpired_clears closed]
  case response =>
    rw [State.gapExpires_answers mark (.inr ⟨m, cont, kind⟩), State.gapExpired_clears closed,
      State.responseOver, State.modLine_modLine]
    rfl

/-! ### The reply wait -/

section
variable {s : State} {n : LineNo} {w : ReplyWait}

/-- A reply wait expires when it has not begun and its timeout has elapsed (R120, R122). -/
theorem exec_replyTimeout (waits : (s.line n).wait = some w) (fresh : w.begun = false) (elapsed : w.timer = some 0) :
    exec (.replyTimeout n) s = .next (s.replyExpires n w) := by
  simp only [exec, execReplyTimeout, waits, fresh, elapsed, and_self, if_true]

/-- With no free descriptor the NO_REPLY record is lost (R68, R79). -/
theorem State.noReply_lost (empty : s.buffer.freeDescs = []) : s.noReply n w = s.raise (.lineLoss n) := by
  simp only [State.noReply, Buffer.takeDesc, empty]

/-- With a free descriptor the NO_REPLY record takes the oldest (R68, R79). -/
theorem State.noReply_queued {d : Nat} {ds : List Nat} (free : s.buffer.freeDescs = d :: ds) :
    s.noReply n w =
      { s with buffer := { s.buffer with freeDescs := ds } }.modLine n fun l =>
        { l with upQueue := l.upQueue ++ [noReplyRecord w d] } := by
  simp only [State.noReply, Buffer.takeDesc, free]

/-- The octets of a NO_REPLY record: its kind, no length, the station alone flagged, the station and the channel
(R68, R184). -/
theorem noReplyRecord_header (w : ReplyWait) (d : Nat) :
    (noReplyRecord w d).header = [0x23, 0x00, 0x80, w.station, w.channel] := by
  simp [UpRecord.header, noReplyRecord, UpRecord.flagsOctet, UpKind.octet, natOctet]

end

/-- Settles O29: the claim of the NO_REPLY record is refused (`State.noReply_lost`) or granted
(`State.noReply_queued`), and the wait expires behind it. -/
theorem replyTimeoutReportsNoReply : Obligations.ReplyTimeoutReportsNoReply := by
  intro s n w waits fresh elapsed
  dsimp only
  rw [exec_replyTimeout waits fresh elapsed, State.replyExpires]
  refine ⟨fun empty => ?_, fun d ds free => ⟨noReplyRecord w d, noReplyRecord_header w d, rfl, rfl, rfl, ?_⟩⟩
  · rw [State.noReply_lost empty]
    rfl
  · rw [State.noReply_queued free, State.modLine_modLine]
    rfl

end Sys2Proof.Machine
end

section
/-! SUPPORT. A law of single lines that their transmitters and Record Assemblers keep, the transmitters' and the assemblers' own laws, and that every step keeps both (O58). -/

namespace Sys2Proof.Machine

/-! ### A law of single lines -/

/-- Every line obeys `L`. -/
def State.EachLine (L : Line → Prop) (s : State) : Prop := ∀ n, L (s.line n)

/-- What the laws of a line's transmitter and of its Record Assembler read, and whether the one-bit rest of LnTX is
over. -/
def Line.duties (l : Line) :
    (TxMode × Bool × Bool × List DownRecord × Option ReplyWait × Option WaitName) × Bool × Bool × Bool × Bool :=
  ((l.txMode, l.sending, l.resting, l.downQueue, l.wait, l.respMark), l.starved, l.openRec.isSome, l.cont.isSome,
    l.gapTimer.isSome)

/-- A law of one line that its Record Assembler's work keeps: the ends of its record and its marking, the end of a
response, the opening of a record, and the line's starvation. -/
structure KeptByAssembly (L : Line → Prop) : Prop where
  same : ∀ {l m : Line}, m.duties = l.duties → L l → L m
  closes : ∀ l, l.openRec.isSome = true → L l → L { l with openRec := none, gapTimer := none }
  splits : ∀ l m, l.openRec.isSome = true → L l → L { l with openRec := none, cont := some m }
  clears : ∀ l, l.cont.isSome = true → L l → L { l with cont := none, gapTimer := none }
  answers : ∀ l, l.respMark.isSome = true → L l → L (Line.settleDrain { l with respMark := none, wait := none })
  opens : ∀ l st m d k, l.openRec = none → l.starved = false → L l → L (l.openNew st m d k)
  starves : ∀ l, l.openRec = none → L l → L { l with starved := true }
  rouses : ∀ l, L l → L { l with starved := false }

section
variable {L : Line → Prop}

theorem KeptByAssembly.closeOpen (h : KeptByAssembly L) {l : Line} (c : CloseCause) (hl : L l) : L (l.closeOpen c) := by
  cases opened : l.openRec with
  | none => simpa only [Line.closeOpen, opened] using hl
  | some r =>
    have some : l.openRec.isSome = true := by rw [opened]; rfl
    cases c with
    | maxLength =>
      refine h.same ?_ (h.splits l { kind := r.kind, station := r.station, channel := r.channel } some hl)
      simp only [Line.closeOpen, opened]
      rfl
    | plain | brk | truncated =>
      refine h.same ?_ (h.closes l some hl)
      simp only [Line.closeOpen, opened]
      rfl

theorem KeptByAssembly.endResponse (h : KeptByAssembly L) {s : State} {n : LineNo} (hs : L (s.line n)) :
    L ((s.endResponse n).line n) := by
  cases mark : (s.line n).respMark with
  | none => rwa [State.endResponse_none mark]
  | some w =>
    rw [State.endResponse_some mark, State.responseOver, State.pollEnd_line, State.modLine_line_self]
    exact h.answers _ (by rw [mark]; rfl) hs

theorem KeptByAssembly.closeRecord (h : KeptByAssembly L) {s : State} {n : LineNo} (c : CloseCause)
    (hs : L (s.line n)) : L ((s.closeRecord n c).line n) := by
  have closed : L ((if c = .truncated then (s.modLine n (Line.closeOpen c)).raise (.lineLoss n)
      else s.modLine n (Line.closeOpen c)).line n) := by
    have line := h.closeOpen c hs
    rw [← State.modLine_line_self s n (Line.closeOpen c)] at line
    split <;> exact line
  unfold State.closeRecord
  split
  · exact hs
  · exact iteInduction (motive := fun t => L (State.line t n)) (fun _ => closed) fun _ => h.endResponse closed

theorem KeptByAssembly.clearCont (h : KeptByAssembly L) {s : State} {n : LineNo} (hs : L (s.line n)) :
    L ((s.clearCont n).line n) := by
  unfold State.clearCont
  split
  · exact hs
  · rename_i marked
    have cleared : L ((s.modLine n fun l => { l with cont := none, gapTimer := none }).line n) := by
      rw [State.modLine_line_self]
      exact h.clears _ (by rw [marked]; rfl) hs
    exact iteInduction (motive := fun t => L (State.line t n)) (fun _ => h.endResponse cleared) fun _ => cleared

theorem KeptByAssembly.openRecord (h : KeptByAssembly L) {s t : State} {n : LineNo} {st : Option Octet} {m : Bool}
    (closed : (s.line n).openRec = none) (awake : (s.line n).starved = false) (hs : L (s.line n))
    (ht : s.openRecord n st m = some t) : L (t.line n) := by
  unfold State.openRecord at ht
  split at ht
  · split at ht <;> cases ht
    rw [State.modLine_line_self]
    exact h.opens _ _ _ _ _ closed awake hs
  · cases ht

/-- A record that grows or fills stays open. -/
theorem KeptByAssembly.refill (h : KeptByAssembly L) {l : Line} {r : UpRecord} (opened : l.openRec = some r)
    (q : UpRecord) (hl : L l) : L { l with openRec := some q } :=
  h.same (by simp only [Line.duties, opened]; rfl) hl

theorem KeptByAssembly.growRecord (h : KeptByAssembly L) {s t : State} {n : LineNo} {r : UpRecord}
    (opened : (s.line n).openRec = some r) (hs : L (s.line n)) (ht : s.growRecord n r = some t) : L (t.line n) := by
  unfold State.growRecord at ht
  split at ht
  · split at ht <;> cases ht
    rw [State.modLine_line_self]
    exact h.refill opened _ hs
  · cases ht

theorem KeptByAssembly.appendChar (h : KeptByAssembly L) {s : State} {n : LineNo} (e : StageEntry)
    (hs : L (s.line n)) : L ((s.appendChar n e).line n) := by
  unfold State.appendChar
  split
  · exact hs
  · rename_i r opened
    have stored : L (({ s with buffer := s.buffer.storeOctet r.chain r.length e.value }.modLine n fun l =>
        { l with openRec := some (r.append e) }).line n) := by
      rw [State.modLine_line_self]
      exact h.refill opened _ hs
    exact iteInduction (motive := fun t => L (State.line t n)) (fun _ => h.closeRecord _ stored) fun _ => stored

theorem KeptByAssembly.starve (h : KeptByAssembly L) {s : State} {n : LineNo} (hs : L (s.line n)) :
    L ((s.starve n).line n) := by
  rw [State.starve, State.modLine_line_self]
  exact h.starves _ (State.closeRecord_openRec s n _) (h.closeRecord _ hs)

/-- A change of the line that touches nothing its law reads. -/
theorem KeptByAssembly.steady (h : KeptByAssembly L) {s : State} {n : LineNo} {f : Line → Line} (hs : L (s.line n))
    (hf : ∀ l, (f l).duties = l.duties := by exact fun _ => rfl) : L ((s.modLine n f).line n) := by
  rw [State.modLine_line_self]
  exact h.same (hf _) hs

/-! ### The line's own stage, and a wake pass beside it -/

/-- Taking an item of its stage keeps the law of a line. -/
theorem KeptByAssembly.items (h : KeptByAssembly L) (n : LineNo) :
    KeptByItems (fun s => L (s.line n) ∧ (s.line n).starved = false) n where
  close s c hs := ⟨h.closeRecord c hs.1, (State.starved_kept n false).close s c hs.2⟩
  clear s hs := ⟨h.clearCont hs.1, (State.starved_kept n false).clear s hs.2⟩
  opens s st m t closed hs ht :=
    ⟨h.openRecord closed hs.2 hs.1 ht, (State.starved_kept n false).opens s st m t closed hs.2 ht⟩
  grow s r t opened hs ht := ⟨h.growRecord opened hs.1 ht, (State.starved_kept n false).grow s r t opened hs.2 ht⟩
  append s e hs := ⟨h.appendChar e hs.1, (State.starved_kept n false).append s e hs.2⟩
  select s k found hs := ⟨h.steady hs.1, (State.starved_kept n false).select s k found hs.2⟩
  ignored s hs := ⟨h.steady hs.1, (State.starved_kept n false).ignored s hs.2⟩

theorem KeptByAssembly.drain (h : KeptByAssembly L) {s : State} {n : LineNo} (hs : L (s.line n)) :
    L ((s.drain n).line n) :=
  State.drain_keeps (P := fun t => L (t.line n) ∧ (t.line n).starved = false) (Q := fun t => L (t.line n)) (fun _ => hs)
    (fun awake => ⟨hs, awake⟩) (fun _ _ _ _ ht hu => (h.items n).takeItem ht hu)
    (fun _ ht => h.steady ht.1) (fun _ _ _ _ ht => h.steady (h.starve ht.1))

/-- While its one-bit rest lasts a line begins no record, so a wake pass keeps a law of it that its Record Assembler
keeps (R86, R117). -/
theorem KeptByAssembly.wakePass (h : KeptByAssembly L) (rests : ∀ l, L l → l.resting = true) {s : State} {n : LineNo}
    (hs : L (s.line n)) : L (s.wakePass.line n) := by
  refine State.wakePass_keeps (P := fun t => L (t.line n)) (fun t m ht _ _ => ?_) hs
  have roused : L ((t.modLine m fun l => { l with starved := false }).line n) := by
    rw [State.modLine_line]
    split
    · rename_i here; exact here ▸ h.rouses _ ht
    · exact ht
  have served (u : State) (hu : L (u.line n)) : L ((u.serve m).line n) := by
    by_cases here : n = m
    · subst here
      have drained := h.drain hu
      rwa [State.serve, State.tryBegin_idle (.inr (by simp [Line.mayBegin, rests _ drained]))]
    · rwa [State.OtherLines.serve m u n here]
  exact served { t.modLine m fun l => { l with starved := false } with
    buffer := { (t.modLine m fun l => { l with starved := false }).buffer with wakePtr := m } } roused

/-! ### All lines -/

/-- Work on one line leaves the others as they are. -/
theorem State.EachLine.of_other {s t : State} {n : LineNo} (hs : s.EachLine L) (other : State.OtherLines n s t)
    (here : L (t.line n)) : t.EachLine L := by
  intro m
  by_cases e : m = n
  · exact e ▸ here
  · rw [other m e]
    exact hs m

theorem State.EachLine.modLine {s : State} {n : LineNo} {f : Line → Line} (hs : s.EachLine L)
    (here : L (f (s.line n))) : (s.modLine n f).EachLine L :=
  hs.of_other (.modLine s n f) (by rwa [State.modLine_line_self])

/-- A change beside the lines. -/
theorem State.EachLine.aside {s t : State} (hs : s.EachLine L) (lines : t.lines = s.lines := by rfl) : t.EachLine L :=
  fun n => by simpa only [State.line, lines] using hs n

theorem State.EachLine.pollEnd {s : State} (hs : s.EachLine L) (c : Octet) (o : PollOutcome) :
    (s.pollEnd c o).EachLine L := hs.aside (State.pollEnd_lines s c o)

theorem State.EachLine.pollEnds {s : State} (hs : s.EachLine L) (gone : List DownRecord) (o : PollOutcome) :
    (gone.foldl (fun (u : State) (x : DownRecord) => u.pollEnd x.channel o) s).EachLine L :=
  foldl_keeps (fun _ x hu => hu.pollEnd x.channel o) gone hs

end

/-- A law of one line that its transmitter keeps as well: the beginning of a record, its queue's growth and its flush,
the end of a drain, the expiry of a wait, its switch, the stop of an idle gap timer, and the reset. -/
structure KeptByTransmission (L : Line → Prop) : Prop extends KeptByAssembly L where
  standing : ∀ {l m : Line}, m.standing = l.standing → L l → L m
  begins : ∀ l, l.downQueue ≠ [] → l.mayBegin = true → L l → L { l with sending := true }
  queues : ∀ l r, l.txMode = .on → L l → L { l with downQueue := l.downQueue ++ [r] }
  flushes : ∀ l, L l → L { l with downQueue := l.flushKept }
  drains : ∀ l, L l → L l.settleDrain
  expires : ∀ l w, l.wait = some w → w.begun = false → L l → L { l with wait := none }
  switches : ∀ l x, x ≠ .off → L l → L { l with txMode := x }
  stopsGap : ∀ l, l.openRec = none → l.cont = none → L l → L { l with gapTimer := none }
  reset : L .reset

section
variable {L : Line → Prop}

/-- Work of lines keeps on every line what each line's own work keeps on it. -/
theorem KeptByTransmission.work (h : KeptByTransmission L) : KeptByWork (State.EachLine L) where
  same same hs n := h.standing (same.lines n) (hs n)
  close s n c hs := hs.of_other (.closeRecord n s c) (h.closeRecord c (hs n))
  clear s n hs := hs.of_other (.clearCont n s) (h.clearCont (hs n))
  opens s n st m t awake closed hs ht :=
    hs.of_other ((State.OtherLines.kept n s).opens s st m t closed (.refl n s) ht) (h.openRecord closed awake (hs n) ht)
  grow s n r t opened hs ht :=
    hs.of_other ((State.OtherLines.kept n s).grow s r t opened (.refl n s) ht) (h.growRecord opened (hs n) ht)
  append s n e hs := hs.of_other ((State.OtherLines.kept n s).append s e (.refl n s)) (h.appendChar e (hs n))
  select s n k _ hs := hs.of_other (.modLine s n _) (h.steady (hs n))
  starve s n hs := hs.of_other ((State.OtherLines.closeRecord n s _).trans (.modLine _ n _)) (h.starve (hs n))
  rouse s n hs := hs.modLine (h.rouses _ (hs n))
  begins s n queue may hs := hs.modLine (h.begins _ queue may (hs n))
  stopGap s n closed unmarked hs := hs.modLine (h.stopsGap _ closed unmarked (hs n))

/-- The end of a record, for a law that holds of the line when its record has left the queue, and when it then begins
its wait (R119, R120). -/
theorem KeptByTransmission.recordEnd (h : KeptByTransmission L) {s : State} {n : LineNo} {r : DownRecord}
    {rest : List DownRecord} (hs : s.EachLine L) (ended : L ((s.line n).elementEnded rest))
    (waits : ∀ w, let released := (s.modLine n (Line.elementEnded rest)).release r.chain r.desc
      L (released.line n) → L { released.line n with wait := some w }) :
    (s.recordEnd n r rest).EachLine L := by
  have released : ((s.modLine n (Line.elementEnded rest)).release r.chain r.desc).EachLine L :=
    h.work.release (hs.modLine ended).aside
  unfold State.recordEnd
  dsimp only
  split
  · exact released.modLine (waits _ (released n))
  · exact (released.modLine (f := Line.settleDrain) (h.drains _ (released n))).pollEnd _ _

theorem KeptByTransmission.flush (h : KeptByTransmission L) {s : State} (n : LineNo) (hs : s.EachLine L) :
    (s.flush n).EachLine L := by
  unfold State.flush
  split
  · exact hs
  · have cut : (s.modLine n fun l => { l with downQueue := l.flushKept }).EachLine L :=
      hs.modLine (h.flushes _ (hs n))
    have settled {t : State} (gone : List DownRecord) (ht : t.EachLine L) :
        ((gone.foldl (fun (u : State) (x : DownRecord) => u.pollEnd x.channel .abandoned) t.wakePass).modLine n
          Line.settleDrain).EachLine L :=
      ((h.work.wakePass ht).pollEnds gone .abandoned).modLine
        (h.drains _ ((h.work.wakePass ht).pollEnds gone .abandoned n))
    exact settled _ cut.aside

/-- A transmitter that refuses no record is on (R110, R124). -/
theorem Line.refusesRecords_eq_false {l : Line} (h : l.refusesRecords = false) : l.txMode = .on := by
  simpa [Line.refusesRecords] using h

/-- The transmitter of an eligible channel's line is on (R141). -/
theorem State.eligible_on {s : State} {c : ChannelNo} (h : s.eligible c = true) :
    (s.line (s.chan c).settings.target).txMode = .on := by
  simp only [State.eligible, Bool.and_eq_true, beq_iff_eq, and_assoc] at h
  obtain ⟨-, on, -⟩ := h
  exact on

theorem State.grantStation_line {s : State} {c : ChannelNo} {e : Script} {st : Station}
    (h : s.grantStation c e = some st) : st.line = (s.chan c).settings.target := by
  rw [State.grantStation_eq] at h
  split at h <;> cases h
  rename_i check
  obtain ⟨-, -, line⟩ := check
  exact line

theorem State.EachLine.queue {s : State} (hs : s.EachLine L) (h : KeptByTransmission L) {n : LineNo} (r : DownRecord)
    (on : (s.line n).txMode = .on) :
    (s.modLine n fun l => { l with downQueue := l.downQueue ++ [r] }).EachLine L :=
  hs.modLine (h.queues _ r on (hs n))

theorem KeptByTransmission.transmitterOff (h : KeptByTransmission L) {s : State} (n : LineNo) (hs : s.EachLine L) :
    (s.transmitterOff n).EachLine L := by
  refine hs.modLine ?_
  split
  · exact h.drains _ (h.switches _ .draining (by decide) (hs n))
  · exact hs n
  · exact hs n

/-- A wait that has not begun expires (R122). -/
theorem KeptByTransmission.expired (h : KeptByTransmission L) {s : State} {n : LineNo} {w : ReplyWait}
    (waits : (s.line n).wait = some w) (fresh : w.begun = false) (hs : s.EachLine L) (c : Octet) (o : PollOutcome) :
    ((s.modLine n (Line.waitExpired w)).pollEnd c o).EachLine L := by
  have line : L ((s.line n).waitExpired w) :=
    h.drains _ (h.same (l := { s.line n with wait := none }) rfl (h.expires _ w waits fresh (hs n)))
  exact (hs.modLine (f := Line.waitExpired w) line).pollEnd c o

/-- A change of the upstream queue. -/
theorem KeptByTransmission.upQueue (h : KeptByTransmission L) {s : State} (n : LineNo)
    (f : List UpRecord → List UpRecord) (hs : s.EachLine L) :
    (s.modLine n fun l => { l with upQueue := f l.upQueue }).EachLine L :=
  hs.modLine (h.same (l := s.line n) rfl (hs n))

theorem State.linesReset_line (s : State) (n : LineNo) : s.linesReset.line n = (s.line n).linesReset := by
  rw [← State.mapLines_line s Line.linesReset n]
  exact congrArg (fun v : Vector Line 8 => v[n]) (State.linesResetParser_lines _)

/-- A law that each line's own work keeps on it, and that the ends of its records keep, every step keeps. -/
theorem KeptByTransmission.rows (h : KeptByTransmission L)
    (recordEnd : ∀ (s : State) n r rest, (s.line n).sending = true → (s.line n).downQueue = r :: rest → s.EachLine L →
      (s.recordEnd n r rest).EachLine L) : KeptByRows (State.EachLine L) where
  toKeptByWork := h.work
  claim _ _ _ _ _ _ _ _ _ hs := hs.aside
  grown _ _ _ _ _ _ _ hs := hs.aside
  stored _ _ _ _ _ hs := hs.aside
  dropped _ _ _ _ _ _ hs := hs.aside
  queued s r _ _ accepts _ hs :=
    State.EachLine.queue (s := s.setParse .between) hs.aside h r (Line.refusesRecords_eq_false accepts)
  sent s n _ rest _ hs := (h.upQueue n (fun _ => rest) hs).aside
  recordEnd := recordEnd
  noReply s n w d b _ hs := h.upQueue (s := { s with buffer := b }) n (fun q => q ++ [noReplyRecord w d]) hs.aside
  expired _ _ _ waits fresh hs := h.expired waits fresh hs _ _
  transmitterOn s n hs := hs.modLine (h.switches _ .on (by decide) (hs n))
  transmitterOff s n hs := h.transmitterOff n hs
  flush s n hs := h.flush n hs
  granted s c e st d k b eligible station _ hs :=
    State.EachLine.aside (s := { s with buffer := b.storeAll [k] 0 e.payload }.modLine st.line fun l =>
        { l with downQueue := l.downQueue ++ [pollRecord c e st d k] })
      (State.EachLine.queue (s := { s with buffer := b.storeAll [k] 0 e.payload }) hs.aside h (pollRecord c e st d k)
        (State.grantStation_line station ▸ State.eligible_on eligible))
  mask _ _ hs := hs.aside
  maskAll _ hs := hs.aside
  arm _ _ hs := hs.aside
  configure _ _ _ _ _ hs := hs.aside
  setStation _ _ _ _ _ hs := hs.aside
  fullReset s c _ n := by
    have line : (s.fullReset c).line n = .reset := reset_line n
    rw [line]
    exact h.reset
  linesReset s _ n := by
    rw [State.linesReset_line]
    exact h.standing (l := .reset) rfl h.reset

end

/-! ### A line at rest -/

/-- A line whose record has just ended, with its transmitter not OFF: nothing is sent, the one-bit rest is not over, and
neither a wait nor a response is in progress (R117, R119). -/
structure Line.Rests (l : Line) : Prop where
  switched : l.txMode ≠ .off
  silent : l.sending = false
  resting : l.resting = true
  unawaited : l.wait = none
  calm : l.respMark = none

theorem Line.Rests.of_duties {l m : Line} (h : l.Rests) (e : m.duties.1 = l.duties.1) : m.Rests := by
  obtain ⟨switched, silent, resting, unawaited, calm⟩ := h
  simp only [Line.duties, Prod.mk.injEq] at e
  obtain ⟨mode, sending, rest, -, wait, mark⟩ := e
  exact ⟨mode ▸ switched, sending.trans silent, rest.trans resting, wait.trans unawaited, mark.trans calm⟩

/-- A record begins the reply of a wait only when there is one (R66). -/
theorem Line.replyCandidate_some {l : Line} {st : Option Octet} {m : Bool} {w : ReplyWait}
    (h : l.replyCandidate st m = some w) : l.wait = some w := by
  unfold Line.replyCandidate at h
  split at h
  · cases h
  · rename_i waits
    split at h <;> cases h
    exact waits

/-- A record that opens leaves the transmitter as it is, or begins the reply of the line's wait (R56, R66). -/
theorem Line.openNew_duties (l : Line) (st : Option Octet) (m : Bool) (d k : Nat) :
    (l.openNew st m d k).duties.1 = l.duties.1 ∨
      ∃ w, l.wait = some w ∧
        (l.openNew st m d k).duties.1 =
          { l with
            respMark := some { station := w.station, channel := w.channel }
            wait := some { w with begun := true, timer := none } }.duties.1 := by
  cases begins : if l.cont.isNone then l.replyCandidate st m else none with
  | none =>
    left
    simp only [Line.openNew, Line.duties, begins]
  | some w =>
    right
    refine ⟨w, ?_, by simp only [Line.openNew, Line.duties, begins]⟩
    split at begins
    · exact Line.replyCandidate_some begins
    · cases begins

theorem Line.Rests.keptByAssembly : KeptByAssembly Line.Rests where
  same e h := h.of_duties (congrArg Prod.fst e)
  closes _ _ h := h.of_duties rfl
  splits _ _ _ h := h.of_duties rfl
  clears _ _ h := h.of_duties rfl
  answers l mark h := by rw [h.calm] at mark; cases mark
  opens l st m d k _ _ h := by
    rcases l.openNew_duties st m d k with same | ⟨w, waits, -⟩
    · exact h.of_duties same
    · rw [h.unawaited] at waits; cases waits
  starves _ _ h := h.of_duties rfl
  rouses _ h := h.of_duties rfl

/-! ### The transmitters' law -/

/-- The law of transmitters, of one line (R66, R116, R120, R125). -/
structure Line.TransmitterSound (l : Line) : Prop where
  off : l.txMode = .off → l.downQueue = [] ∧ l.sending = false ∧ l.wait = none
  sends : l.sending = true → l.downQueue ≠ [] ∧ l.wait = none
  replies : ∀ m, l.respMark = some m → ∃ w, l.wait = some w ∧ w.begun = true

theorem State.transmittersSound_iff (s : State) : s.TransmittersSound ↔ s.EachLine Line.TransmitterSound :=
  forall_congr' fun _ => ⟨fun ⟨off, sends, replies⟩ => ⟨off, sends, replies⟩, fun h => ⟨h.off, h.sends, h.replies⟩⟩

section
variable {l m : Line}

/-- The law reads the transmitter's switch, queue and work, the response marking, and of a wait whether it has begun. -/
theorem Line.TransmitterSound.of_eq (h : l.TransmitterSound) (mode : m.txMode = l.txMode)
    (sending : m.sending = l.sending) (queue : m.downQueue = l.downQueue)
    (wait : m.wait.map (fun w => w.begun) = l.wait.map fun w => w.begun)
    (mark : m.respMark = l.respMark) : m.TransmitterSound := by
  have unawaited : m.wait = none ↔ l.wait = none := by
    rw [← Option.map_eq_none_iff (f := fun w => w.begun), wait, Option.map_eq_none_iff]
  have begun : (∃ w, m.wait = some w ∧ w.begun = true) ↔ ∃ w, l.wait = some w ∧ w.begun = true := by
    rw [← Option.map_eq_some_iff, wait, Option.map_eq_some_iff]
  constructor
  · rw [mode, queue, sending, unawaited]; exact h.off
  · rw [sending, queue, unawaited]; exact h.sends
  · simp only [mark, begun]; exact h.replies

theorem Line.TransmitterSound.of_duties (h : l.TransmitterSound) (e : m.duties.1 = l.duties.1) :
    m.TransmitterSound := by
  simp only [Line.duties, Prod.mk.injEq] at e
  obtain ⟨mode, sending, -, queue, wait, mark⟩ := e
  exact h.of_eq mode sending queue (by rw [wait]) mark

theorem Line.TransmitterSound.of_standing (h : l.TransmitterSound) (e : m.standing = l.standing) :
    m.TransmitterSound := by
  have begun (k : Line) : k.standing.wait.map (fun w => w.begun) = k.wait.map fun w => w.begun := by
    cases waits : k.wait <;> simp [Line.standing, waits]
  exact h.of_eq (congrArg (Line.txMode ·) e :) (congrArg (Line.sending ·) e :) (congrArg (Line.downQueue ·) e :)
    (by rw [← begun, e, begun]) (congrArg (Line.respMark ·) e :)

/-- A transmitter that a drain's end switches OFF has no work (R125). -/
theorem Line.TransmitterSound.settleDrain (h : l.TransmitterSound) : l.settleDrain.TransmitterSound := by
  rw [Line.settleDrain_ite]
  split
  · rename_i drained
    obtain ⟨-, silent, unawaited, empty⟩ := drained
    exact ⟨fun _ => ⟨empty, silent, unawaited⟩, h.sends, h.replies⟩
  · exact h

/-- A line whose wait is gone, with no response in progress. -/
theorem Line.TransmitterSound.unawaited (h : l.TransmitterSound) (mode : m.txMode = l.txMode)
    (sending : m.sending = l.sending) (queue : m.downQueue = l.downQueue) (wait : m.wait = none)
    (mark : m.respMark = none) : m.TransmitterSound where
  off hm := by
    obtain ⟨empty, silent, -⟩ := h.off (mode ▸ hm)
    exact ⟨queue.trans empty, sending.trans silent, wait⟩
  sends hm := ⟨queue ▸ (h.sends (sending ▸ hm)).1, wait⟩
  replies _ hm := by rw [mark] at hm; cases hm

/-- Only a line that awaits a reply begins one, and then its transmitter is neither OFF nor sending (R66, R120). -/
theorem Line.TransmitterSound.openNew (h : l.TransmitterSound) (st : Option Octet) (b : Bool) (d k : Nat) :
    (l.openNew st b d k).TransmitterSound := by
  rcases l.openNew_duties st b d k with same | ⟨w, waits, begins⟩
  · exact h.of_duties same
  · have awaited : l.wait ≠ none := by rw [waits]; exact Option.some_ne_none w
    refine Line.TransmitterSound.of_duties ⟨fun off => ?_, fun sends => ?_, fun _ _ => ⟨_, rfl, rfl⟩⟩ begins
    · exact absurd (h.off off).2.2 awaited
    · exact absurd (h.sends sends).2 awaited

end

theorem Line.TransmitterSound.kept : KeptByTransmission Line.TransmitterSound where
  same e h := h.of_duties (congrArg Prod.fst e)
  closes _ _ h := h.of_duties rfl
  splits _ _ _ h := h.of_duties rfl
  clears _ _ h := h.of_duties rfl
  answers l _ h := (h.unawaited (m := { l with respMark := none, wait := none }) rfl rfl rfl rfl rfl).settleDrain
  opens _ st m d k _ _ h := h.openNew st m d k
  starves _ _ h := h.of_duties rfl
  rouses _ h := h.of_duties rfl
  standing e h := h.of_standing e
  begins l queue may h := by
    obtain ⟨on, -, wait, -, -⟩ := (Line.mayBegin_iff l).mp may
    exact ⟨fun off => absurd off on, fun _ => ⟨queue, wait⟩, h.replies⟩
  queues l r on h :=
    ⟨fun off => absurd (on.symm.trans off) (by decide), fun sends => ⟨by simp, (h.sends sends).2⟩, h.replies⟩
  flushes l h := by
    have kept (sends : l.sending = true) : l.flushKept ≠ [] := by
      simpa [Line.flushKept, sends] using (h.sends sends).1
    refine ⟨fun off => ?_, fun sends => ⟨kept sends, (h.sends sends).2⟩, h.replies⟩
    obtain ⟨-, silent, unawaited⟩ := h.off off
    exact ⟨by simp [Line.flushKept, silent], silent, unawaited⟩
  drains _ h := h.settleDrain
  expires l w waits fresh h := by
    refine h.unawaited rfl rfl rfl rfl (Option.eq_none_iff_forall_ne_some.mpr fun m mark => ?_)
    obtain ⟨v, awaited, begun⟩ := h.replies m mark
    cases waits.symm.trans awaited
    cases fresh.symm.trans begun
  switches l x on h := ⟨fun off => absurd off on, h.sends, h.replies⟩
  stopsGap _ _ _ h := h.of_duties rfl
  reset := ⟨fun _ => ⟨rfl, rfl, rfl⟩, nofun, nofun⟩

/-- A transmitter that sends is not OFF and awaits nothing, so at its record's end the line rests (R119). -/
theorem Line.TransmitterSound.elementEnded_rests {l : Line} (h : l.TransmitterSound) (sends : l.sending = true)
    (rest : List DownRecord) : (l.elementEnded rest).Rests where
  switched off := by
    obtain ⟨-, silent, -⟩ := h.off off
    cases silent.symm.trans sends
  silent := rfl
  resting := rfl
  unawaited := (h.sends sends).2
  calm := Option.eq_none_iff_forall_ne_some.mpr fun m mark => by
    obtain ⟨w, waits, -⟩ := h.replies m mark
    cases waits.symm.trans (h.sends sends).2

/-- A line at rest obeys the law, whatever its wait. -/
theorem Line.Rests.transmitterSound {l : Line} (h : l.Rests) (w : Option ReplyWait) :
    { l with wait := w }.TransmitterSound where
  off off := absurd off h.switched
  sends sends := by cases h.silent.symm.trans sends
  replies _ mark := by cases h.calm.symm.trans mark

theorem transmittersSound_rows : KeptByRows (State.EachLine Line.TransmitterSound) :=
  Line.TransmitterSound.kept.rows fun s n r rest sends _ hs => by
    have ended := (hs n).elementEnded_rests sends rest
    have rests : (((s.modLine n (Line.elementEnded rest)).release r.chain r.desc).line n).Rests :=
      Line.Rests.keptByAssembly.wakePass (fun _ h => h.resting) (by
        rw [← State.modLine_line_self s n (Line.elementEnded rest)] at ended
        exact ended)
    exact Line.TransmitterSound.kept.recordEnd hs (ended.transmitterSound _) fun w _ => rests.transmitterSound (some w)

/-! ### The assemblers' law -/

/-- The law of Record Assemblers, of one line (R58, R59, R63, R72). -/
structure Line.AssemblerSound (l : Line) : Prop where
  starved : l.starved = true → l.openRec = none
  one : l.openRec = none ∨ l.cont = none
  gap : l.gapTimer.isSome = true ↔ l.openRec.isSome = true ∨ l.cont.isSome = true

theorem State.assemblersSound_iff (s : State) : s.AssemblersSound ↔ s.EachLine Line.AssemblerSound :=
  forall_congr' fun _ => ⟨fun ⟨starved, one, gap⟩ => ⟨starved, one, gap⟩, fun h => ⟨h.starved, h.one, h.gap⟩⟩

/-- The law reads the starved flag, and whether there is a record, a marking and a running timer. -/
theorem Line.AssemblerSound.of_duties {l m : Line} (h : l.AssemblerSound) (e : m.duties.2 = l.duties.2) :
    m.AssemblerSound := by
  simp only [Line.duties, Prod.mk.injEq] at e
  obtain ⟨flag, opened, marked, timer⟩ := e
  have closed := Option.isSome_eq_isSome.mp opened
  have unmarked := Option.isSome_eq_isSome.mp marked
  constructor
  · rw [flag, closed]; exact h.starved
  · rw [closed, unmarked]; exact h.one
  · rw [timer, opened, marked]; exact h.gap

theorem Line.settleDrain_assembler (l : Line) : l.settleDrain.duties.2 = l.duties.2 := by
  rw [Line.settleDrain_eq]
  rfl

theorem Line.standing_assembler (l : Line) : l.standing.duties.2 = l.duties.2 := by
  simp [Line.standing, Line.duties]

theorem Line.AssemblerSound.kept : KeptByTransmission Line.AssemblerSound where
  same e h := h.of_duties (congrArg Prod.snd e)
  closes l opened h := by
    have unmarked := h.one.resolve_left (Option.isSome_iff_ne_none.mp opened)
    exact ⟨fun _ => rfl, .inl rfl, by simp [unmarked]⟩
  splits l m opened h := ⟨fun _ => rfl, .inl rfl, by simp [h.gap.mpr (.inl opened)]⟩
  clears l marked h := by
    have closed := h.one.resolve_right (Option.isSome_iff_ne_none.mp marked)
    exact ⟨fun _ => closed, .inl closed, by simp [closed]⟩
  answers _ _ h := h.of_duties (Line.settleDrain_assembler _)
  opens l st m d k _ awake _ := ⟨fun starved => (by cases awake.symm.trans starved), .inr rfl, by simp [Line.openNew]⟩
  starves _ closed h := ⟨fun _ => closed, h.one, h.gap⟩
  rouses _ h := ⟨nofun, h.one, h.gap⟩
  standing {l m} e h := h.of_duties (by rw [← l.standing_assembler, ← m.standing_assembler, e])
  begins _ _ _ h := h.of_duties rfl
  queues _ _ _ h := h.of_duties rfl
  flushes _ h := h.of_duties rfl
  drains l h := h.of_duties l.settleDrain_assembler
  expires _ _ _ _ h := h.of_duties rfl
  switches _ _ _ h := h.of_duties rfl
  stopsGap l closed unmarked h := ⟨h.starved, h.one, by simp [closed, unmarked]⟩
  reset := ⟨nofun, .inl rfl, by simp [Line.reset]⟩

theorem assemblersSound_rows : KeptByRows (State.EachLine Line.AssemblerSound) :=
  Line.AssemblerSound.kept.rows fun _ n _ _ _ _ hs =>
    Line.AssemblerSound.kept.recordEnd hs ((hs n).of_duties rfl) fun _ h => h.of_duties rfl

/-- Settles O58, by `KeptByRows.step`: both laws are laws of single lines (`State.transmittersSound_iff`,
`State.assemblersSound_iff`), and a line at the end of its record rests until its wait begins. -/
theorem stepKeepsTransmittersAndAssemblers : Obligations.StepKeepsTransmittersAndAssemblers :=
  ⟨fun s t hs ht => (State.transmittersSound_iff t).mpr
      (transmittersSound_rows.step ((State.transmittersSound_iff s).mp hs) ht),
    fun s t hs ht => (State.assemblersSound_iff t).mpr
      (assemblersSound_rows.step ((State.assemblersSound_iff s).mp hs) ht)⟩

end Sys2Proof.Machine
end

section
/-! SUPPORT. The Shared Buffer's storage, kept by every step (O54), and the canonical form of its octets (O53): what each operation does with blocks and descriptors, counted as multisets, and then one proof for both laws. -/

namespace Sys2Proof.Machine

/-! ### Storage, counted -/

/-- Blocks and descriptors, each with how often it occurs (R76). -/
abbrev Storage := Multiset Nat × Multiset Nat

/-- The storage that a list of blocks and a list of descriptors make up. -/
def storageOf (blocks descs : List Nat) : Storage := (↑blocks, ↑descs)

theorem storageOf_append (a b c d : List Nat) : storageOf (a ++ b) (c ++ d) = storageOf a c + storageOf b d := rfl

@[simp] theorem storageOf_nil : storageOf [] [] = 0 := rfl

/-- The storage held by upstream records (R76). -/
def upStorage (rs : List UpRecord) : Storage := storageOf (rs.flatMap fun r => r.chain) (rs.map fun r => r.desc)

/-- The storage held by downstream records (R76). -/
def downStorage (rs : List DownRecord) : Storage := storageOf (rs.flatMap fun r => r.chain) (rs.map fun r => r.desc)

/-- The storage in the free lists (R76). -/
def Buffer.freeStorage (b : Buffer) : Storage := storageOf b.freeBlocks b.freeDescs

/-- The storage held by a line's records (R76). -/
def Line.storage (l : Line) : Storage := storageOf l.heldBlocks l.heldDescs

/-- The storage held by the record the Downstream Parser is reading (R76). -/
def DownParse.storage (p : DownParse) : Storage := storageOf p.heldBlocks p.heldDescs

/-- All storage, free or held (R76). -/
def State.storage (s : State) : Storage :=
  storageOf (s.buffer.freeBlocks ++ s.heldBlocks) (s.buffer.freeDescs ++ s.heldDescs)

/-- The 512 blocks and the 192 descriptors, each once (R76). -/
def wholeStorage : Storage := storageOf (List.range Config.blocks) (List.range Config.descriptors)

/-- The storage is conserved when all of it is the blocks and the descriptors, each once. -/
theorem State.storageConserved_iff (s : State) : s.StorageConserved ↔ s.storage = wholeStorage := by
  simp only [State.StorageConserved, State.storage, wholeStorage, storageOf, Prod.mk.injEq, Multiset.coe_eq_coe]

/-! ### Records -/

@[simp] theorem upStorage_nil : upStorage [] = 0 := rfl

@[simp] theorem upStorage_cons (r : UpRecord) (rs : List UpRecord) :
    upStorage (r :: rs) = storageOf r.chain [r.desc] + upStorage rs := by
  simp only [upStorage, List.flatMap_cons, List.map_cons, ← storageOf_append, List.singleton_append]

@[simp] theorem upStorage_append (qs rs : List UpRecord) : upStorage (qs ++ rs) = upStorage qs + upStorage rs := by
  simp only [upStorage, List.flatMap_append, List.map_append, storageOf_append]

@[simp] theorem downStorage_nil : downStorage [] = 0 := rfl

@[simp] theorem downStorage_cons (r : DownRecord) (rs : List DownRecord) :
    downStorage (r :: rs) = storageOf r.chain [r.desc] + downStorage rs := by
  simp only [downStorage, List.flatMap_cons, List.map_cons, ← storageOf_append, List.singleton_append]

@[simp] theorem downStorage_append (qs rs : List DownRecord) :
    downStorage (qs ++ rs) = downStorage qs + downStorage rs := by
  simp only [downStorage, List.flatMap_append, List.map_append, storageOf_append]

theorem Line.storage_eq (l : Line) :
    l.storage = upStorage l.openRec.toList + upStorage l.upQueue + downStorage l.downQueue := rfl

theorem DownParse.storage_eq (p : DownParse) : p.storage = downStorage p.record.toList := by
  cases p with
  | payload r k => exact (by simp : downStorage [r] = storageOf r.chain [r.desc]).symm
  | waitRestart | between | header _ _ | skip _ => rfl

theorem storageOf_flatMap {α : Type} (ns : List α) (blocks descs : α → List Nat) :
    storageOf (ns.flatMap blocks) (ns.flatMap descs) = (ns.map fun n => storageOf (blocks n) (descs n)).sum := by
  induction ns with
  | nil => rfl
  | cons n ns ih => simp only [List.flatMap_cons, storageOf_append, ih, List.map_cons, List.sum_cons]

/-- All storage is in the free lists, with the lines, or with the Downstream Parser (R76). -/
theorem State.storage_eq (s : State) :
    s.storage = s.buffer.freeStorage + ∑ n : LineNo, (s.line n).storage + s.parser.parse.storage := by
  have lines : storageOf (allLines.flatMap fun n => (s.line n).heldBlocks)
      (allLines.flatMap fun n => (s.line n).heldDescs) = ∑ n : LineNo, (s.line n).storage := by
    rw [storageOf_flatMap, Fin.sum_univ_eight]
    simp only [allLines, List.map_cons, List.map_nil, List.sum_cons, List.sum_nil, Line.storage, add_zero, add_assoc]
  rw [State.storage, State.heldBlocks, State.heldDescs, storageOf_append, storageOf_append, lines, ← add_assoc]
  rfl

/-! ### The free lists -/

theorem Buffer.takeBlock_storage {b c : Buffer} {k : Nat} (h : b.takeBlock = some (k, c)) :
    c.cells = b.cells ∧ b.freeStorage = storageOf [k] [] + c.freeStorage := by
  unfold Buffer.takeBlock at h
  split at h <;> cases h
  rename_i blocks
  rw [Buffer.freeStorage, blocks]
  exact ⟨rfl, rfl⟩

theorem Buffer.takeDesc_storage {b c : Buffer} {d : Nat} (h : b.takeDesc = some (d, c)) :
    c.cells = b.cells ∧ b.freeStorage = storageOf [] [d] + c.freeStorage := by
  unfold Buffer.takeDesc at h
  split at h <;> cases h
  rename_i descs
  rw [Buffer.freeStorage, descs]
  exact ⟨rfl, rfl⟩

theorem Buffer.takeBoth_storage {b c : Buffer} {d k : Nat} (h : b.takeBoth = some (d, k, c)) :
    c.cells = b.cells ∧ b.freeStorage = storageOf [k] [d] + c.freeStorage := by
  unfold Buffer.takeBoth at h
  split at h <;> cases h
  rename_i descs blocks
  rw [Buffer.freeStorage, descs, blocks]
  exact ⟨rfl, rfl⟩

theorem Buffer.giveBack_storage (b : Buffer) (chain : List Nat) (desc : Nat) :
    (b.giveBack chain desc).freeStorage = b.freeStorage + storageOf chain [desc] := rfl

/-! ### What leaves the storage as it is -/

/-- From `s` to `t` no octet is written and no block or descriptor is lost or found. -/
structure State.SameStorage (s t : State) : Prop where
  cells : t.buffer.cells = s.buffer.cells
  storage : t.storage = s.storage

theorem State.SameStorage.refl (s : State) : s.SameStorage s := ⟨rfl, rfl⟩

theorem State.SameStorage.trans {s t u : State} (h : s.SameStorage t) (k : t.SameStorage u) : s.SameStorage u :=
  ⟨k.cells.trans h.cells, k.storage.trans h.storage⟩

/-- Storage that moves between the free lists, one line and the Downstream Parser. -/
theorem State.SameStorage.moved {s t : State} {n : LineNo} {l : Line} (lines : t.lines = s.lines.set n l)
    (cells : t.buffer.cells = s.buffer.cells)
    (balance : t.buffer.freeStorage + l.storage + t.parser.parse.storage =
      s.buffer.freeStorage + (s.line n).storage + s.parser.parse.storage) : s.SameStorage t := by
  have line (m : LineNo) : t.line m = (s.modLine n fun _ => l).line m := congrArg (fun v : Vector Line 8 => v[m]) lines
  have rest : ∑ m ∈ Finset.univ.erase n, (t.line m).storage = ∑ m ∈ Finset.univ.erase n, (s.line m).storage :=
    Finset.sum_congr rfl fun m hm => by rw [line, State.modLine_line_ne s _ (Finset.ne_of_mem_erase hm).symm]
  refine ⟨cells, ?_⟩
  rw [State.storage_eq, State.storage_eq, ← Finset.add_sum_erase _ _ (Finset.mem_univ n),
    ← Finset.add_sum_erase _ _ (Finset.mem_univ n), rest, line, State.modLine_line_self, ← add_assoc, ← add_assoc,
    add_right_comm, balance, add_right_comm]

/-- Storage that moves between the free lists and one line. -/
theorem State.SameStorage.exchanged {s t : State} {n : LineNo} {l : Line} (lines : t.lines = s.lines.set n l)
    (cells : t.buffer.cells = s.buffer.cells)
    (balance : t.buffer.freeStorage + l.storage = s.buffer.freeStorage + (s.line n).storage)
    (parser : t.parser = s.parser := by rfl) : s.SameStorage t :=
  .moved lines cells (by rw [balance, parser])

/-- Storage that moves between the free lists and the Downstream Parser. -/
theorem State.SameStorage.parsed {s t : State} (cells : t.buffer.cells = s.buffer.cells)
    (balance : t.buffer.freeStorage + t.parser.parse.storage = s.buffer.freeStorage + s.parser.parse.storage)
    (lines : t.lines = s.lines := by rfl) : s.SameStorage t := by
  have line (n : LineNo) : t.line n = s.line n := by simp only [State.line, lines]
  refine ⟨cells, ?_⟩
  simp only [State.storage_eq, line]
  rw [add_right_comm, balance, add_right_comm]

/-- A change beside the lines, the Shared Buffer and the Downstream Parser's record. -/
theorem State.SameStorage.aside {s t : State} (lines : t.lines = s.lines := by rfl)
    (buffer : t.buffer = s.buffer := by rfl) (parser : t.parser = s.parser := by rfl) : s.SameStorage t :=
  .parsed (by rw [buffer]) (by rw [buffer, parser]) lines

/-- A change of a line that leaves its records their storage. -/
theorem State.SameStorage.modLine (s : State) (n : LineNo) {f : Line → Line}
    (h : (f (s.line n)).storage = (s.line n).storage := by rfl) : s.SameStorage (s.modLine n f) :=
  .exchanged rfl rfl (congrArg _ h)

theorem Line.standing_storage (l : Line) : l.standing.storage = l.storage := rfl

/-- The storage is a thing that the standing laws read. -/
theorem State.SameStanding.sameStorage {s t : State} (h : s.SameStanding t) : s.SameStorage t := by
  have line (n : LineNo) : (t.line n).storage = (s.line n).storage := by
    rw [← Line.standing_storage, h.lines n, Line.standing_storage]
  refine ⟨h.cells, ?_⟩
  simp only [State.storage_eq, line, Buffer.freeStorage, h.freeBlocks, h.freeDescs, DownParse.storage_eq, h.record]

/-! ### Line work -/

theorem State.SameStorage.pollEnd (s : State) (c : Octet) (o : PollOutcome) : s.SameStorage (s.pollEnd c o) :=
  .aside (State.pollEnd_lines s c o) (State.pollEnd_buffer s c o) (State.Beside.pollEnd s c o).parser

theorem Line.settleDrain_storage (l : Line) : l.settleDrain.storage = l.storage := by
  rw [Line.settleDrain_eq]
  rfl

/-- A record that closes goes into the upstream queue with its storage (R65). -/
theorem Line.closeOpen_storage (c : CloseCause) (l : Line) : (l.closeOpen c).storage = l.storage := by
  unfold Line.closeOpen
  split
  · rfl
  · rename_i r opened
    have desc : (r.closedBy c).desc = r.desc := by cases c <;> rfl
    simp only [Line.storage_eq, opened, Option.toList_some, Option.toList_none, upStorage_append, upStorage_cons,
      upStorage_nil, UpRecord.closedBy_chain, desc]
    abel

theorem State.SameStorage.endResponse (s : State) (n : LineNo) : s.SameStorage (s.endResponse n) := by
  unfold State.endResponse
  split
  · exact .refl s
  · refine (State.SameStorage.modLine s n ?_).trans (.pollEnd _ _ _)
    exact Line.settleDrain_storage _

theorem State.SameStorage.closeRecord (s : State) (n : LineNo) (c : CloseCause) : s.SameStorage (s.closeRecord n c) := by
  have closed := State.SameStorage.modLine s n (Line.closeOpen_storage c _)
  have lost : s.SameStorage (if c = .truncated then (s.modLine n (Line.closeOpen c)).raise (.lineLoss n)
      else s.modLine n (Line.closeOpen c)) :=
    iteInduction (motive := fun t => s.SameStorage t) (fun _ => closed.trans .aside) fun _ => closed
  unfold State.closeRecord
  split
  · exact .refl s
  · exact iteInduction (motive := fun t => s.SameStorage t) (fun _ => lost) fun _ => lost.trans (.endResponse _ n)

theorem State.SameStorage.clearCont (s : State) (n : LineNo) : s.SameStorage (s.clearCont n) := by
  have cleared := State.SameStorage.modLine s n (f := fun l => { l with cont := none, gapTimer := none })
  unfold State.clearCont
  split
  · exact .refl s
  · exact iteInduction (motive := fun t => s.SameStorage t) (fun _ => cleared.trans (.endResponse _ n)) fun _ => cleared

/-- An opening claim moves a descriptor and a block from the free lists to the record that opens (R56, R80). -/
theorem State.SameStorage.openRecord {s t : State} {n : LineNo} {st : Option Octet} {m : Bool}
    (closed : (s.line n).openRec = none) (h : s.openRecord n st m = some t) : s.SameStorage t := by
  unfold State.openRecord at h
  split at h
  · split at h <;> cases h
    rename_i d k b taken
    obtain ⟨cells, free⟩ := Buffer.takeBoth_storage taken
    refine .exchanged rfl cells ?_
    have opened : ((s.line n).openNew st m d k).storage = storageOf [k] [d] + (s.line n).storage := by
      simp only [Line.storage_eq, Line.openNew, closed, Option.toList_some, Option.toList_none, upStorage_cons,
        upStorage_nil]
      abel
    show b.freeStorage + ((s.line n).openNew st m d k).storage = _
    rw [opened, free]
    abel
  · cases h

/-- A growth claim moves a block from the free list to the open record (R57). -/
theorem State.SameStorage.growRecord {s t : State} {n : LineNo} {r : UpRecord} (opened : (s.line n).openRec = some r)
    (h : s.growRecord n r = some t) : s.SameStorage t := by
  unfold State.growRecord at h
  split at h
  · split at h <;> cases h
    rename_i k b taken
    obtain ⟨cells, free⟩ := Buffer.takeBlock_storage taken
    refine .exchanged (l := { s.line n with openRec := some { r with chain := r.chain ++ [k] } }) rfl cells ?_
    have one : storageOf (r.chain ++ [k]) [r.desc] = storageOf r.chain [r.desc] + storageOf [k] [] := rfl
    show b.freeStorage + _ = _
    rw [free, Line.storage_eq, Line.storage_eq, opened]
    simp only [Option.toList_some, upStorage_cons, upStorage_nil, one]
    abel
  · cases h

/-! ### Records that come and go -/

/-- A record that leaves its line's downstream queue gives its storage back (R83, R119). -/
theorem State.SameStorage.dequeued {s : State} {n : LineNo} {r : DownRecord} {rest : List DownRecord}
    (queue : (s.line n).downQueue = r :: rest) :
    s.SameStorage { s.modLine n (Line.elementEnded rest) with buffer := s.buffer.giveBack r.chain r.desc } := by
  refine .exchanged (l := (s.line n).elementEnded rest) rfl rfl ?_
  show (s.buffer.giveBack r.chain r.desc).freeStorage + _ = _
  rw [Buffer.giveBack_storage, Line.storage_eq, Line.storage_eq, queue]
  simp only [Line.elementEnded, downStorage_cons]
  abel

/-- A record that leaves its line's upstream queue gives its storage back (R83, R97). -/
theorem State.SameStorage.upSent {s : State} {n : LineNo} {r : UpRecord} {rest : List UpRecord}
    (queue : (s.line n).upQueue = r :: rest) :
    s.SameStorage
      { s.modLine n (fun l => { l with upQueue := rest }) with buffer := s.buffer.giveBack r.chain r.desc } := by
  refine .exchanged (l := { s.line n with upQueue := rest }) rfl rfl ?_
  show (s.buffer.giveBack r.chain r.desc).freeStorage + _ = _
  rw [Buffer.giveBack_storage, Line.storage_eq, Line.storage_eq, queue]
  simp only [upStorage_cons]
  abel

/-- The records that a flush discards give their storage back (R83, R126). -/
theorem State.SameStorage.flushReturned (s : State) (n : LineNo) : s.SameStorage (s.flushReturned n) := by
  refine .exchanged (l := { s.line n with downQueue := (s.line n).flushKept }) rfl rfl ?_
  have free : (s.flushReturned n).buffer.freeStorage = s.buffer.freeStorage + downStorage (s.line n).flushed := rfl
  rw [free, Line.storage_eq, Line.storage_eq, ← (s.line n).flushKept_append_flushed, downStorage_append]
  abel

/-- The record of a NO_REPLY claim joins the upstream queue with its descriptor (R68, R79). -/
theorem State.SameStorage.noReply {s : State} {d : Nat} {b : Buffer} (n : LineNo) (w : ReplyWait)
    (taken : s.buffer.takeDesc = some (d, b)) :
    s.SameStorage ({ s with buffer := b }.modLine n fun l => { l with upQueue := l.upQueue ++ [noReplyRecord w d] }) := by
  obtain ⟨cells, free⟩ := Buffer.takeDesc_storage taken
  refine .exchanged (l := { s.line n with upQueue := (s.line n).upQueue ++ [noReplyRecord w d] }) rfl cells ?_
  show b.freeStorage + _ = _
  rw [free, Line.storage_eq, Line.storage_eq]
  simp only [upStorage_append, upStorage_cons, upStorage_nil, noReplyRecord]
  abel

/-- A record joins its line's downstream queue with the storage it was given (R112, R145). -/
theorem State.SameStorage.enqueued {s t : State} {n : LineNo} (r : DownRecord) (cells : t.buffer.cells = s.buffer.cells)
    (lines : t.lines = s.lines)
    (balance : t.buffer.freeStorage + t.parser.parse.storage + storageOf r.chain [r.desc] =
      s.buffer.freeStorage + s.parser.parse.storage) :
    s.SameStorage (t.modLine n fun l => { l with downQueue := l.downQueue ++ [r] }) := by
  have line : t.line n = s.line n := by simp only [State.line, lines]
  refine .moved (n := n) (l := { s.line n with downQueue := (s.line n).downQueue ++ [r] }) ?_ cells ?_
  · rw [← line, ← lines]
    rfl
  · rw [State.modLine_buffer, State.modLine_parser, Line.storage_eq, add_right_comm s.buffer.freeStorage, ← balance,
      Line.storage_eq]
    simp only [downStorage_append, downStorage_cons, downStorage_nil]
    abel

theorem State.SameStorage.pollEnds (gone : List DownRecord) (o : PollOutcome) (s : State) :
    s.SameStorage (s.pollEnds o gone) := by
  induction gone generalizing s with
  | nil => exact .refl s
  | cons r rs ih => exact (State.SameStorage.pollEnd s r.channel o).trans (ih _)

/-! ### Laws of the storage -/

section
variable {P : State → Prop}

/-- A law of the storage, by what it must survive: octets stored, and what writes none and loses none. -/
structure KeptByStorage (P : State → Prop) : Prop where
  same : ∀ {s t : State}, s.SameStorage t → P s → P t
  stored : ∀ {s : State} (chain : List Nat) (k : Nat) (o : Octet), P s →
    P { s with buffer := s.buffer.storeOctet chain k o }

/-- A character that is stored changes an octet, and a record that it completes closes (R57, R59). -/
theorem KeptByStorage.appendChar (h : KeptByStorage P) {s : State} (n : LineNo) (e : StageEntry) (hs : P s) :
    P (s.appendChar n e) := by
  unfold State.appendChar
  split
  · exact hs
  · rename_i r opened
    have noted : P ({ s with buffer := s.buffer.storeOctet r.chain r.length e.value }.modLine n fun l =>
        { l with openRec := some (r.append e) }) := by
      refine h.same (.modLine _ n ?_) (h.stored r.chain r.length e.value hs)
      have opened : (State.line { s with buffer := s.buffer.storeOctet r.chain r.length e.value } n).openRec = some r :=
        opened
      simp only [Line.storage_eq, opened, Option.toList_some, upStorage_cons]
      rfl
    exact iteInduction (motive := P) (fun _ => h.same (.closeRecord _ _ _) noted) fun _ => noted

theorem KeptByStorage.work (h : KeptByStorage P) : KeptByWork P where
  same hst := h.same hst.sameStorage
  close s n c := h.same (.closeRecord s n c)
  clear s n := h.same (.clearCont s n)
  opens _ _ _ _ _ _ closed hs ht := h.same (.openRecord closed ht) hs
  grow _ _ _ _ opened hs ht := h.same (.growRecord opened ht) hs
  append _ n e hs := h.appendChar n e hs
  select s n _ _ := h.same (.modLine s n)
  starve s n := h.same ((State.SameStorage.closeRecord s n .truncated).trans (.modLine _ n))
  rouse s n := h.same (.modLine s n)
  begins s n _ _ := h.same (.modLine s n)
  stopGap s n _ _ := h.same (.modLine s n)

theorem KeptByStorage.storeAll (h : KeptByStorage P) (chain : List Nat) (k : Nat) (os : List Octet) {s : State}
    (hs : P s) : P { s with buffer := s.buffer.storeAll chain k os } := by
  induction os generalizing s k with
  | nil => exact hs
  | cons o os ih => exact ih (k + 1) (h.stored chain k o hs)

/-! ### Rows -/

theorem KeptByStorage.recordEnd (h : KeptByStorage P) {s : State} {n : LineNo} {r : DownRecord} {rest : List DownRecord}
    (queue : (s.line n).downQueue = r :: rest) (hs : P s) : P (s.recordEnd n r rest) := by
  have released : P ((s.modLine n (Line.elementEnded rest)).release r.chain r.desc) :=
    h.work.release (h.same (.dequeued queue) hs)
  unfold State.recordEnd
  dsimp only
  split
  · exact h.same (.modLine _ n) released
  · exact h.same ((State.SameStorage.modLine _ n (Line.settleDrain_storage _)).trans (.pollEnd _ _ _)) released

theorem KeptByStorage.flush (h : KeptByStorage P) {s : State} (n : LineNo) (hs : P s) : P (s.flush n) := by
  by_cases gone : (s.line n).flushed = []
  · rwa [State.flush_nothing gone]
  · rw [State.flush_some gone]
    exact h.same ((State.SameStorage.pollEnds _ _ _).trans (.modLine _ n (Line.settleDrain_storage _)))
      (h.work.wakePass (h.same (.flushReturned s n) hs))

/-- A grant's claim, its record and its payload (R145). -/
theorem KeptByStorage.granted (h : KeptByStorage P) {s : State} {c : ChannelNo} {e : Script} {st : Station} {d k : Nat}
    {b : Buffer} (taken : s.buffer.takeBoth = some (d, k, b)) (hs : P s) :
    P (({ s with buffer := b.storeAll [k] 0 e.payload }.modLine st.line fun l =>
      { l with downQueue := l.downQueue ++ [pollRecord c e st d k] }).modChan c Channel.afterGrant) := by
  obtain ⟨cells, free⟩ := Buffer.takeBoth_storage taken
  have queued : s.SameStorage ({ s with buffer := b }.modLine st.line fun l =>
      { l with downQueue := l.downQueue ++ [pollRecord c e st d k] }) := by
    refine .enqueued (t := { s with buffer := b }) _ cells rfl ?_
    rw [free]
    show b.freeStorage + s.parser.parse.storage + storageOf [k] [d] = _
    abel
  have made : P (({ s with buffer := b }.modLine st.line fun l =>
      { l with downQueue := l.downQueue ++ [pollRecord c e st d k] }).modChan c Channel.afterGrant) :=
    h.same (queued.trans .aside) hs
  exact h.storeAll [k] 0 e.payload made

/-- A law of the storage that the resets keep, every step keeps. -/
theorem KeptByStorage.rows (h : KeptByStorage P) (fullReset : ∀ s c, P s → P (s.fullReset c))
    (linesReset : ∀ s, P s → P s.linesReset) : KeptByRows P where
  toKeptByWork := h.work
  claim s r d b reading taken desc chain _ hs := by
    obtain ⟨cells, free⟩ := Buffer.takeDesc_storage taken
    refine h.same (.parsed cells ?_) hs
    rw [free, DownParse.storage_eq s.parser.parse, reading]
    show b.freeStorage + storageOf r.chain [r.desc] = storageOf [] [d] + b.freeStorage + 0
    rw [chain, desc, add_comm, add_zero]
  grown s r k i b reading taken hs := by
    obtain ⟨cells, free⟩ := Buffer.takeBlock_storage taken
    refine h.same (.parsed cells ?_) hs
    rw [free, reading]
    show b.freeStorage + (storageOf r.chain [r.desc] + storageOf [i] []) =
      storageOf [i] [] + b.freeStorage + storageOf r.chain [r.desc]
    abel
  stored _ r k o _ hs := h.stored r.chain k o hs
  dropped s r k p reading hp hs := by
    refine h.same (s := s) (.parsed rfl ?_) hs
    show (s.buffer.giveBack r.chain r.desc).freeStorage + p.storage = _
    rw [reading, DownParse.storage_eq p, hp, Buffer.giveBack_storage]
    exact add_zero _
  queued s r k reading _ _ hs := by
    refine h.same (s := s) (.enqueued (t := s.setParse .between) r rfl rfl ?_) hs
    rw [reading]
    show s.buffer.freeStorage + 0 + storageOf r.chain [r.desc] = _
    rw [add_zero]
    rfl
  sent _ _ _ _ queue := h.same (.upSent queue)
  recordEnd _ _ _ _ _ queue := h.recordEnd queue
  noReply _ n w _ _ taken := h.same (.noReply n w taken)
  expired s n w _ _ :=
    h.same ((State.SameStorage.modLine s n (f := Line.waitExpired w) (Line.settleDrain_storage _)).trans (.pollEnd _ _ _))
  transmitterOn s n := h.same (.modLine s n)
  transmitterOff s n := h.same (.modLine s n (by
    split
    · exact Line.settleDrain_storage _
    · rfl
    · rfl))
  flush _ n := h.flush n
  granted _ _ _ _ _ _ _ _ _ taken := h.granted taken
  mask _ _ := h.same .aside
  maskAll _ := h.same .aside
  arm _ _ := h.same .aside
  configure _ _ _ _ _ := h.same .aside
  setStation _ _ _ _ _ := h.same .aside
  fullReset := fullReset
  linesReset := linesReset

end

/-! ### The two laws -/

/-- With no line and no parser holding a record, all storage is free. -/
theorem State.storage_free {s : State} (lines : ∀ n, (s.line n).storage = 0) (record : s.parser.parse.record = none) :
    s.storage = s.buffer.freeStorage := by
  simp only [State.storage_eq, lines, DownParse.storage_eq, record, Option.toList_none, downStorage_nil,
    Finset.sum_const_zero, add_zero]

/-- After a reset of the Buffer Manager everything is free (R89). -/
theorem Buffer.reset_storage (cells : List Host.Cell) :
    { Buffer.reset with cells := cells }.freeStorage = wholeStorage := by
  simp only [Buffer.freeStorage, Buffer.reset, wholeStorage]

theorem State.fullReset_storage (s : State) (c : Cause) : (s.fullReset c).storage = wholeStorage :=
  have free := State.storage_free (s := s.fullReset c) (fun n => congrArg Line.storage (reset_line n)) rfl
  have whole : (s.fullReset c).buffer.freeStorage = wholeStorage := Buffer.reset_storage s.buffer.cells
  free.trans whole

/-- A LINES-scope reset frees everything, the record that the Downstream Parser was reading too (R89, R114). -/
theorem State.linesReset_storage (s : State) : s.linesReset.storage = wholeStorage := by
  refine (State.storage_free (fun n => ?_) ?_).trans (Buffer.reset_storage s.buffer.cells)
  · have line : s.linesReset.line n = (s.mapLines Line.linesReset).line n :=
      congrArg (fun v : Vector Line 8 => v[n]) (State.linesResetParser_lines _)
    rw [line, State.mapLines_line]
    rfl
  · show (s.mapLines Line.linesReset).linesResetParser.parser.parse.record = none
    unfold State.linesResetParser
    split
    · rename_i reading; rw [reading]; rfl
    · rename_i reading; rw [reading]; rfl
    · rename_i reading; rw [reading]; rfl
    · rfl
    · rfl
    · exact afterSkip_record _

theorem storageWhole_kept : KeptByStorage fun s => s.storage = wholeStorage where
  same h hs := h.storage.trans hs
  stored _ _ _ hs := hs

theorem cellsCanonical_kept : KeptByStorage State.CellsCanonical where
  same h hs := by rwa [State.CellsCanonical, h.cells]
  stored chain k o hs := Buffer.storeOctet_wf hs chain k o

theorem State.CellsCanonical.fullReset {s : State} (h : s.CellsCanonical) (c : Cause) :
    (s.fullReset c).CellsCanonical := by
  simpa only [State.CellsCanonical, State.fullReset] using h

theorem State.CellsCanonical.linesReset {s : State} (h : s.CellsCanonical) : s.linesReset.CellsCanonical := by
  simpa only [State.CellsCanonical, State.linesReset] using h

/-- Settles O53, by `KeptByRows.step`: octets are written by `Buffer.storeOctet` alone, and the resets leave them. -/
theorem stepKeepsTheBufferCanonical : Obligations.StepKeepsTheBufferCanonical := fun _ _ =>
  (cellsCanonical_kept.rows (fun _ c hs => hs.fullReset c) fun _ hs => hs.linesReset).step

/-- Settles O54, by `KeptByRows.step`: every operation moves storage between the free lists, the lines and the
Downstream Parser (`State.SameStorage.moved`), and a reset frees all of it. -/
theorem stepConservesTheStorage : Obligations.StepConservesTheStorage := fun s t hs ht =>
  (State.storageConserved_iff t).mpr
    ((storageWhole_kept.rows (fun s c _ => s.fullReset_storage c) fun s _ => s.linesReset_storage).step
      ((State.storageConserved_iff s).mp hs) ht)

end Sys2Proof.Machine
end

section
/-! SUPPORT. Releases and the wake pass (O26): the pass as one turn for each line in rotation. -/

namespace Sys2Proof.Machine

/-! ### A line's turn -/

/-- A line's turn in the wake pass is taken: it is starved, and the free counts and its quota allow an opening (R86). -/
def State.WakeDue (s : State) (n : LineNo) : Prop :=
  (s.line n).starved = true ∧ 32 < s.buffer.freeBlocks.length ∧ 16 < s.buffer.freeDescs.length ∧
    (s.line n).upBlocks < (s.line n).params.quota

/-- One line's turn in the wake pass (R86). -/
def State.wakeTurn (s : State) (n : LineNo) : State :=
  if (s.line n).starved = true ∧ 32 < s.buffer.freeBlocks.length ∧ 16 < s.buffer.freeDescs.length ∧
      (s.line n).upBlocks < (s.line n).params.quota then
    s.retry n
  else s

theorem State.wakeTurn_due {s : State} {n : LineNo} (h : s.WakeDue n) : s.wakeTurn n = s.retry n := if_pos h

theorem State.wakeTurn_idle {s : State} {n : LineNo} (h : ¬s.WakeDue n) : s.wakeTurn n = s := if_neg h

/-- Lines none of which is due leave the state as it is. -/
theorem State.wakeTurns_idle {s : State} {ns : List LineNo} (h : ∀ n ∈ ns, ¬s.WakeDue n) :
    ns.foldl State.wakeTurn s = s := by
  induction ns with
  | nil => rfl
  | cons n ns ih =>
    rw [List.foldl_cons, State.wakeTurn_idle (h n List.mem_cons_self)]
    exact ih fun m hm => h m (List.mem_cons_of_mem n hm)

/-! ### The pass -/

theorem Buffer.openingCounts_iff (b : Buffer) :
    b.openingCounts = true ↔ 32 < b.freeBlocks.length ∧ 16 < b.freeDescs.length := by
  simp only [Buffer.openingCounts, Bool.and_eq_true, decide_eq_true_eq]
  rfl

/-- An opening claim is granted below the quota and above both reserves (R78). -/
theorem State.openingAllowed_iff (s : State) (n : LineNo) :
    s.openingAllowed n = true ↔
      (s.line n).upBlocks < (s.line n).params.quota ∧ 32 < s.buffer.freeBlocks.length ∧
        16 < s.buffer.freeDescs.length := by
  simp only [State.openingAllowed, State.growthAllowed, Bool.and_eq_true, decide_eq_true_eq, and_assoc]
  rfl

theorem State.wakeLines_eq (ns : List LineNo) (s : State) : State.wakeLines ns s = ns.foldl State.wakeTurn s := by
  induction ns generalizing s with
  | nil => rfl
  | cons n ns ih =>
    rw [List.foldl_cons, State.wakeLines]
    split
    · rename_i starved
      split
      · rename_i counts
        obtain ⟨blocks, descs⟩ := (Buffer.openingCounts_iff _).mp counts
        split
        · rename_i allowed
          have quota := ((State.openingAllowed_iff s n).mp allowed).1
          rw [State.wakeTurn_due ⟨starved, blocks, descs, quota⟩, ih]
        · rename_i refused
          rw [State.wakeTurn_idle fun ⟨_, _, _, quota⟩ =>
            refused ((State.openingAllowed_iff s n).mpr ⟨quota, blocks, descs⟩), ih]
      · rename_i short
        have idle (m : LineNo) : ¬s.WakeDue m := fun ⟨_, blocks, descs, _⟩ =>
          short ((Buffer.openingCounts_iff _).mpr ⟨blocks, descs⟩)
        rw [State.wakeTurn_idle (idle n), State.wakeTurns_idle fun m _ => idle m]
    · rename_i fed
      rw [State.wakeTurn_idle fun due => fed due.1, ih]

/-- The wake pass is the turns of the eight lines in rotation (R86). -/
theorem State.wakePass_eq (s : State) : s.wakePass = (rotation s.buffer.wakePtr).foldl State.wakeTurn s :=
  State.wakeLines_eq _ s

/-- A wake pass that finds no line due does nothing (R86). -/
theorem State.wakePass_idle {s : State} (h : ∀ n, ¬s.WakeDue n) : s.wakePass = s :=
  (s.wakePass_eq).trans (State.wakeTurns_idle fun n _ => h n)

theorem rotation_nodup (p : LineNo) : (rotation p).Nodup := by revert p; decide

theorem mem_rotation (p n : LineNo) : n ∈ rotation p := by revert p n; decide

/-- A wake pass that finds one line starved, and due, retries it alone (R86). -/
theorem State.wakePass_single {s : State} {n : LineNo} (due : s.WakeDue n)
    (fed : ∀ m, m ≠ n → (s.line m).starved = false) : s.wakePass = s.retry n := by
  have idle {u : State} (others : State.OtherLines n s u) {m : LineNo} (other : m ≠ n) : ¬u.WakeDue m := by
    rintro ⟨starved, -⟩
    rw [others m other, fed m other] at starved
    cases starved
  have retried : State.OtherLines n s (s.retry n) :=
    (State.OtherLines.modLine s n fun l => { l with starved := false }).trans
      (State.OtherLines.serve n { s.modLine n fun l => { l with starved := false } with
        buffer := { s.buffer with wakePtr := n } })
  obtain ⟨before, behind, e⟩ := List.append_of_mem (mem_rotation s.buffer.wakePtr n)
  have once := rotation_nodup s.buffer.wakePtr
  rw [e, List.nodup_middle, List.nodup_cons, List.mem_append, not_or] at once
  obtain ⟨⟨notBefore, notBehind⟩, -⟩ := once
  rw [State.wakePass_eq, e, List.foldl_append, List.foldl_cons,
    State.wakeTurns_idle fun m hm => idle (.refl n s) fun here => notBefore (here ▸ hm),
    State.wakeTurn_due due,
    State.wakeTurns_idle fun m hm => idle retried fun here => notBehind (here ▸ hm)]

/-- Settles O26: a release by `State.wakePass_noneStarved`, and the wake pass by its turns (`State.wakePass_eq`). -/
theorem releaseAndWakePass : Obligations.ReleaseAndWakePass := by
  refine ⟨fun s chain desc fed => ?_, fun s => ⟨fun short => ?_, fun full => ?_, fun n starved fed blocks descs quota => ?_⟩,
    fun s => s.wakePass_eq⟩
  · exact State.wakePass_noneStarved fed
  · refine State.wakePass_idle fun n due => ?_
    obtain ⟨-, blocks, descs, -⟩ := due
    omega
  · refine State.wakePass_idle fun n due => ?_
    obtain ⟨starved, -, -, quota⟩ := due
    have := full n starved
    omega
  · exact State.wakePass_single ⟨starved, blocks, descs, quota⟩ fed

end Sys2Proof.Machine
end

section
/-! SUPPORT. The upstream reserves and refused claims (O23): when a claim is granted, what it leaves free, and what a line is left with when its claim is refused. -/

namespace Sys2Proof.Machine

/-! ### Claims -/

/-- A growth claim is granted below the quota and above the block reserve (R78). -/
theorem State.growthAllowed_iff (s : State) (n : LineNo) :
    s.growthAllowed n = true ↔ (s.line n).upBlocks < (s.line n).params.quota ∧ 32 < s.buffer.freeBlocks.length := by
  simp only [State.growthAllowed, Bool.and_eq_true, decide_eq_true_eq]
  rfl

theorem State.openRecord_refused {s : State} {n : LineNo} (refused : s.openingAllowed n = false) (st : Option Octet)
    (m : Bool) : s.openRecord n st m = none := by
  simp [State.openRecord, refused]

theorem State.growRecord_refused {s : State} {n : LineNo} (refused : s.growthAllowed n = false) (r : UpRecord) :
    s.growRecord n r = none := by
  simp [State.growRecord, refused]

/-- A granted opening claim leaves both reserves (R78). -/
theorem State.openRecord_reserves {s t : State} {n : LineNo} {st : Option Octet} {m : Bool}
    (h : s.openRecord n st m = some t) : 32 ≤ t.buffer.freeBlocks.length ∧ 16 ≤ t.buffer.freeDescs.length := by
  unfold State.openRecord Buffer.takeBoth at h
  split at h
  · rename_i allowed
    obtain ⟨-, blocks, descs⟩ := (State.openingAllowed_iff s n).mp allowed
    split at h <;> cases h
    rename_i taken
    split at taken <;> cases taken
    rename_i freeDescs freeBlocks
    rw [freeBlocks, List.length_cons] at blocks
    rw [freeDescs, List.length_cons] at descs
    exact ⟨Nat.le_of_lt_succ blocks, Nat.le_of_lt_succ descs⟩
  · cases h

/-- A granted growth claim leaves the block reserve (R78). -/
theorem State.growRecord_reserve {s t : State} {n : LineNo} {r : UpRecord} (h : s.growRecord n r = some t) :
    32 ≤ t.buffer.freeBlocks.length := by
  unfold State.growRecord Buffer.takeBlock at h
  split at h
  · rename_i allowed
    obtain ⟨-, blocks⟩ := (State.growthAllowed_iff s n).mp allowed
    split at h <;> cases h
    rename_i taken
    split at taken <;> cases taken
    rename_i freeBlocks
    rw [freeBlocks, List.length_cons] at blocks
    exact Nat.le_of_lt_succ blocks
  · cases h

theorem State.growthAllowed_refused {s : State} {n : LineNo}
    (h : (s.line n).params.quota ≤ (s.line n).upBlocks ∨ s.buffer.freeBlocks.length ≤ 32) : s.growthAllowed n = false := by
  refine Bool.eq_false_of_not_eq_true fun allowed => ?_
  obtain ⟨quota, blocks⟩ := (State.growthAllowed_iff s n).mp allowed
  omega

theorem State.openingAllowed_refused {s : State} {n : LineNo}
    (h : s.growthAllowed n = false ∨ s.buffer.freeDescs.length ≤ 16) : s.openingAllowed n = false := by
  refine Bool.eq_false_of_not_eq_true fun allowed => ?_
  obtain ⟨quota, blocks, descs⟩ := (State.openingAllowed_iff s n).mp allowed
  obtain refused | short := h
  · rw [(State.growthAllowed_iff s n).mpr ⟨quota, blocks⟩] at refused
    cases refused
  · omega

/-! ### Refused entries -/

/-- An entry of the line's own speaker that would open a record is refused with the opening claim (R55, R61). -/
theorem State.takeEntry_unopened {s : State} {n : LineNo} {e : StageEntry}
    (own : (s.line n).params.addressMark = false ∨ (e.mark = false ∧ (s.line n).selection.isSome = true))
    (closed : (s.line n).openRec = none) (refused : s.openingAllowed n = false) (m : Bool) : s.takeEntry n m e = none := by
  cases brk : e.brk with
  | true =>
    rw [State.takeEntry_break own brk, State.takeBreak]
    simp only [closed, State.openRecord_refused refused, Option.map_none]
  | false =>
    rw [State.takeEntry_data own brk, State.takeData]
    simp only [closed, State.openRecord_refused refused, Option.map_none]

/-- A data character that the open record must grow for is refused with the growth claim (R55, R57). -/
theorem State.takeEntry_ungrown {s : State} {n : LineNo} {e : StageEntry} {r : UpRecord}
    (own : (s.line n).params.addressMark = false ∨ (e.mark = false ∧ (s.line n).selection.isSome = true))
    (opened : (s.line n).openRec = some r) (data : e.brk = false) (due : r.length % 16 = 0)
    (refused : s.growthAllowed n = false) (m : Bool) : s.takeEntry n m e = none := by
  rw [State.takeEntry_data own data, State.takeData]
  simp only [opened]
  rw [if_pos (show r.length % Config.blockSize = 0 from due), State.growRecord_refused refused, Option.map_none]

/-! ### The line that is starved -/

theorem State.starve_closed {s : State} {n : LineNo} (closed : (s.line n).openRec = none) :
    s.starve n = s.modLine n fun l => { l with starved := true } := by
  rw [State.starve, State.closeRecord_none _ closed]

/-- A starved line whose open record `r` has closed TRUNCATED (R63, R65, R85). -/
def Line.cut (r : UpRecord) (l : Line) : Line :=
  { l with
    starved := true, openRec := none, gapTimer := none
    upQueue := l.upQueue ++ [{ r with flags := { r.flags with truncated := true } }]
    counters :=
      { l.counters with
        recordsClosed := satInc l.counters.recordsClosed
        recordsTruncated := satInc l.counters.recordsTruncated } }

/-- Starvation with a record open closes it TRUNCATED, and a response in progress ends with it (R63, R65, R67). -/
theorem State.starve_open {s : State} {n : LineNo} {r : UpRecord} (opened : (s.line n).openRec = some r) :
    ((s.line n).respMark = none → s.starve n = (s.modLine n (Line.cut r)).raise (.lineLoss n)) ∧
      ∀ w : WaitName, (s.line n).respMark = some w →
        s.starve n = ((s.modLine n (Line.cut r)).raise (.lineLoss n)).responseOver n w := by
  have cut : ((s.modLine n (Line.closeOpen .truncated)).raise (.lineLoss n)).modLine n
      (fun l => { l with starved := true }) = (s.modLine n (Line.cut r)).raise (.lineLoss n) := by
    rw [State.raise_modLine, State.modLine_modLine]
    refine congrArg (State.raise · (.lineLoss n)) (State.modLine_congr s n ?_)
    simp only [Function.comp, Line.closeOpen, opened, Line.cut, UpRecord.closedBy, reduceCtorEq, if_true, if_false]
  refine ⟨fun calm => ?_, fun w answering => ?_⟩
  · rw [State.starve, State.closeRecord_truncated opened calm, cut]
  · rw [State.starve, State.closeRecord_response opened answering (by decide), if_pos rfl, State.responseOver_modLine, cut]
    intro l
    rw [Line.settleDrain_eq, Line.settleDrain_eq]

/-- Settles O23: a claim by `State.openingAllowed_iff` and `State.growthAllowed_iff`, and a refused entry by
`State.drain_refused` and what starvation does. -/
theorem claimsAndRefusals : Obligations.ClaimsAndRefusals := by
  refine ⟨fun s n => ⟨fun st m t => State.openRecord_reserves, fun r t => State.growRecord_reserve,
    fun st m r => ⟨fun h => ?_, fun short => ?_⟩⟩,
    fun s n e rest => ⟨fun starved => State.drain_nothing (.inl starved), fun awake stage own =>
      ⟨fun closed refused => ?_, fun r opened data due refused => ?_⟩⟩⟩
  · have refused := State.growthAllowed_refused h
    exact ⟨State.openRecord_refused (State.openingAllowed_refused (.inl refused)) st m, State.growRecord_refused refused r⟩
  · exact State.openRecord_refused (State.openingAllowed_refused (.inr short)) st m
  · rw [State.drain_refused awake stage (State.takeEntry_unopened own closed refused _), State.starve_closed closed]
  · obtain ⟨calm, answering⟩ := State.starve_open opened
    rw [State.drain_refused awake stage (State.takeEntry_ungrown own opened data due refused _)]
    exact ⟨calm, answering⟩

end Sys2Proof.Machine
end

section
/-! SUPPORT. The payload of a downstream record (O16): octet by octet, what has been stored so far and where, and the record that joins its line's queue. -/

namespace Sys2Proof.Machine

/-! ### Addresses -/

/-- The blocks that hold `k` payload octets (R77). -/
def blocksFor (k : Nat) : Nat := (k + 15) / 16

/-- Within a chain of different blocks, different payload octets have different addresses (R77). -/
theorem payloadAddr_inj {chain : List Nat} (once : chain.Nodup) {j k : Nat} (hj : j / 16 < chain.length)
    (hk : k / 16 < chain.length) (h : payloadAddr chain j = payloadAddr chain k) : j = k := by
  have addr : 16 * chain[j / 16] + j % 16 = 16 * chain[k / 16] + k % 16 := by
    simpa only [payloadAddr, Config.blockSize, List.getD_eq_getElem _ _ hj, List.getD_eq_getElem _ _ hk] using h
  have block : chain[j / 16] = chain[k / 16] := by omega
  have place : j / 16 = k / 16 := (once.getElem_inj_iff).mp block
  omega

/-- A chain that grows leaves the octets it held where they were (R57, R77). -/
theorem payloadAddr_append {chain : List Nat} {j : Nat} (hj : j / 16 < chain.length) (grown : List Nat) :
    payloadAddr (chain ++ grown) j = payloadAddr chain j := by
  have block : (chain ++ grown).getD (j / 16) 0 = chain.getD (j / 16) 0 := List.getD_append _ _ _ _ hj
  simp only [payloadAddr, Config.blockSize, block]

/-! ### What is stored so far -/

/-- The octets `stored` are the payload in the blocks at the head of the free list `free`, which have left it. -/
structure Buffer.Stored (free : List Nat) (stored : List Octet) (b : Buffer) : Prop where
  canonical : Memory.wf b.cells = true
  blocks : b.freeBlocks = free.drop (blocksFor stored.length)
  payload : b.payload (free.take (blocksFor stored.length)) stored.length = stored

/-- The Shared Buffer with payload octet `k` stored, in the block that it is the first of or in the last one (R111). -/
def Buffer.storeNext (free : List Nat) (k : Nat) (o : Octet) (b : Buffer) : Buffer :=
  Buffer.storeOctet { b with freeBlocks := free.drop (blocksFor (k + 1)) } (free.take (blocksFor (k + 1))) k o

/-- At a 16-octet boundary an octet needs the next free block. -/
theorem blocksFor_boundary {free : List Nat} {k : Nat} (boundary : k % 16 = 0) (room : k < 16 * free.length) :
    ∃ i, free.drop (blocksFor k) = i :: free.drop (blocksFor (k + 1)) ∧
      free.take (blocksFor (k + 1)) = free.take (blocksFor k) ++ [i] := by
  have next : blocksFor (k + 1) = blocksFor k + 1 := by simp only [blocksFor]; omega
  have inside : blocksFor k < free.length := by simp only [blocksFor]; omega
  rw [next]
  exact ⟨free[blocksFor k], List.drop_eq_getElem_cons inside, (List.take_append_getElem inside).symm⟩

theorem blocksFor_within {k : Nat} (within : k % 16 ≠ 0) : blocksFor (k + 1) = blocksFor k := by
  simp only [blocksFor]
  omega

/-- The blocks of `k` octets are the first of the blocks of one octet more. -/
theorem take_blocksFor_succ (free : List Nat) (k : Nat) :
    ∃ grown, free.take (blocksFor (k + 1)) = free.take (blocksFor k) ++ grown := by
  have more : blocksFor k ≤ blocksFor (k + 1) := by simp only [blocksFor]; omega
  obtain ⟨grown, h⟩ := List.take_prefix_take_left more (l := free)
  exact ⟨grown, h.symm⟩

/-- Octet `j` of `k` that there is room for lies in one of their blocks. -/
theorem blocksFor_covers {free : List Nat} {j k : Nat} (inside : j < k) (room : k ≤ 16 * free.length) :
    j / 16 < (free.take (blocksFor k)).length := by
  rw [List.length_take]
  simp only [blocksFor]
  omega

theorem Buffer.Stored.next {free : List Nat} {stored : List Octet} {b : Buffer} (h : b.Stored free stored)
    (once : free.Nodup) (room : stored.length < 16 * free.length) (o : Octet) :
    (b.storeNext free stored.length o).Stored free (stored ++ [o]) := by
  have length : (stored ++ [o]).length = stored.length + 1 := List.length_append
  obtain ⟨grown, chain⟩ := take_blocksFor_succ free stored.length
  have here := blocksFor_covers (Nat.lt_add_one _) room
  obtain ⟨reads, others⟩ := Buffer.storeOctet_reads (b := { b with freeBlocks := free.drop (blocksFor (stored.length + 1)) })
    h.canonical (free.take (blocksFor (stored.length + 1))) stored.length o
  have kept {j : Nat} (hj : j < stored.length) :
      (b.storeNext free stored.length o).payloadOctet (free.take (blocksFor (stored.length + 1))) j =
        b.payloadOctet (free.take (blocksFor stored.length)) j := by
    have there := blocksFor_covers (Nat.lt_succ_of_lt hj) room
    have apart := mt (payloadAddr_inj (once.sublist (List.take_sublist _ _)) there here) (Nat.ne_of_lt hj)
    refine (others _ apart).trans ?_
    rw [chain, payloadAddr_append (blocksFor_covers hj (Nat.le_of_lt room))]
    rfl
  refine ⟨Buffer.storeOctet_wf h.canonical _ _ o, by rw [length]; rfl, ?_⟩
  rw [length, Buffer.payload, List.range_succ, List.map_append, List.map_singleton]
  have before := List.map_congr_left fun j hj => kept (List.mem_range.mp hj)
  rw [before]
  exact congrArg₂ _ h.payload (congrArg (fun v => [v]) reads)

/-! ### The payload, octet by octet -/

/-- The Downstream Parser reading the payload of `r`, of which `k` octets have been stored in blocks of `free`. -/
def State.receiving (s : State) (free : List Nat) (r : DownRecord) (k : Nat) (b : Buffer) : State :=
  { s with buffer := b }.setParse (.payload { r with chain := free.take (blocksFor k) } k)

/-- A payload octet for which there is room is stored, and the last completes the record (R111). -/
theorem State.feedDown_payload {s : State} {free : List Nat} {r : DownRecord} {stored : List Octet} {b : Buffer}
    (h : b.Stored free stored) (room : stored.length < 16 * free.length) (o : Octet) :
    (s.receiving free r stored.length b).feedDown o =
      if stored.length + 1 = r.length then
        { s.receiving free r stored.length b with buffer := b.storeNext free stored.length o }.appendDown
          { r with chain := free.take (blocksFor (stored.length + 1)) }
      else s.receiving free r (stored.length + 1) (b.storeNext free stored.length o) := by
  have fed : (s.receiving free r stored.length b).feedDown o =
      (s.receiving free r stored.length b).feedPayload { r with chain := free.take (blocksFor stored.length) }
        stored.length o := rfl
  rw [fed, State.feedPayload]
  split
  · rename_i boundary
    obtain ⟨i, blocks, chain⟩ := blocksFor_boundary boundary room
    have taken : (s.receiving free r stored.length b).buffer.takeBlock =
        some (i, { b with freeBlocks := free.drop (blocksFor (stored.length + 1)) }) := by
      simp only [State.receiving, State.setParse_buffer, Buffer.takeBlock, h.blocks, blocks]
    rw [taken]
    simp only [State.storePayload, ← chain]
    rfl
  · rename_i within
    have blocks := h.blocks
    rw [← blocksFor_within within] at blocks ⊢
    simp only [State.storePayload, Buffer.storeNext, ← blocks]
    rfl

/-- The octets of a payload for which there is room are stored, and the record is appended (R76, R77, R111). -/
theorem State.feedDown_payloads {s : State} {free : List Nat} {r : DownRecord} (once : free.Nodup)
    (room : r.length ≤ 16 * free.length) {os : List Octet} (more : os ≠ []) {stored : List Octet} {b : Buffer}
    (h : b.Stored free stored) (length : (stored ++ os).length = r.length) :
    ∃ (c : Buffer) (p : DownParse), c.Stored free (stored ++ os) ∧
      os.foldl State.feedDown (s.receiving free r stored.length b) =
        ({ s with buffer := c }.setParse p).appendDown { r with chain := free.take (blocksFor r.length) } := by
  induction os generalizing stored b with
  | nil => exact absurd rfl more
  | cons o os ih =>
    simp only [List.length_append, List.length_cons] at length
    have here : stored.length < 16 * free.length := by omega
    have next := h.next once here o
    rw [List.foldl_cons, State.feedDown_payload h here]
    by_cases last : os = []
    · subst last
      have full : stored.length + 1 = r.length := length
      rw [if_pos full, full]
      exact ⟨_, _, next, rfl⟩
    · have left := List.length_pos_iff.mpr last
      rw [if_neg (by omega)]
      obtain ⟨c, p, held, appended⟩ := ih last next (by simp only [List.length_append, List.length_singleton]; omega)
      rw [List.append_assoc] at held
      rw [List.length_append] at appended
      exact ⟨c, p, held, appended⟩

/-! ### The record -/

/-- The kind, the length and the station of a SEND record that passes its checks: it has a descriptor, and its payload
is read (R109, R110). -/
theorem State.feedDown_sendHeader {s : State} {len station : Octet} {d : Nat} {ds : List Nat}
    (reading : s.parser.parse = .between) (positive : len.toNat ≠ 0) (descs : s.buffer.freeDescs = d :: ds)
    (valid : (s.station station).valid = true) (down : (s.station station).down = true)
    (on : (s.line (s.station station).line).txMode = .on)
    (room : (s.line (s.station station).line).downQueue.length < 16) :
    [0x41, len, station].foldl State.feedDown s =
      s.receiving s.buffer.freeBlocks (DownKind.send.headEndRecord len.toNat station (s.station station) d) 0
        { s.buffer with freeDescs := ds } := by
  have kind : s.feedDown 0x41 = s.setParse (.header .send none) := by
    simp only [State.feedDown, reading]
    rfl
  have length : (s.setParse (.header .send none)).feedDown len = s.setParse (.header .send (some len.toNat)) := rfl
  have passes : (s.setParse (.header .send (some len.toNat))).checkHeader .send len.toNat station =
      .ok (s.station station) := by
    have room := Nat.not_le.mpr room
    rw [State.checkHeader_eq]
    simp [positive, valid, down, on, room]
  have accepted := State.feedDown_accepted (s := s.setParse (.header .send (some len.toNat))) rfl passes
  simp only [State.setParse_buffer, descs, if_neg positive] at accepted
  rw [List.foldl_cons, List.foldl_cons, List.foldl_cons, List.foldl_nil, kind, length, accepted]
  rfl

/-- A record appended to a line that keeps a reply wait joins the queue and does not begin (R112, R117). -/
theorem State.appendDown_waiting {s : State} {r : DownRecord} (on : (s.line r.line).txMode = .on)
    (room : (s.line r.line).downQueue.length < 16) (waits : (s.line r.line).wait.isSome = true) :
    s.appendDown r = (s.setParse .between).modLine r.line fun l => { l with downQueue := l.downQueue ++ [r] } := by
  rw [State.appendDown_queued on room]
  refine State.tryBegin_idle (.inr ?_)
  rw [State.modLine_line_self]
  simp [Line.mayBegin, Option.isNone_eq_false_iff.mpr waits]

/-- Free blocks that are conserved are all different (R76). -/
theorem State.StorageConserved.freeBlocks_nodup {s : State} (h : s.StorageConserved) : s.buffer.freeBlocks.Nodup :=
  (List.nodup_append.mp (h.1.nodup_iff.mpr List.nodup_range)).1

/-- A payload octet at a 16-octet boundary that finds no free block (R111, R115). -/
theorem State.feedDown_noBuffer {s : State} {r : DownRecord} {k : Nat} (reading : s.parser.parse = .payload r k)
    (boundary : k % 16 = 0) (empty : s.buffer.freeBlocks = []) (o : Octet) :
    s.feedDown o = (s.discardDown .noBuffer (afterSkip (r.length - k - 1))).release r.chain r.desc := by
  simp only [State.feedDown, reading, State.feedPayload, Buffer.takeBlock, empty]
  exact if_pos boundary

/-- Settles O16: the header takes a descriptor (`State.feedDown_sendHeader`), the payload's octets are stored one by one
(`State.feedDown_payloads`), and the record joins its line's queue. -/
theorem acceptedPayloadIsStored : Obligations.AcceptedPayloadIsStored := by
  refine ⟨fun s station len payload reading canonical conserved length nonempty room descs valid down => ?_,
    fun s r k o reading boundary empty => State.feedDown_noBuffer reading boundary empty o⟩
  intro n on queue waits
  obtain ⟨d, ds, descs⟩ := List.exists_cons_of_ne_nil descs
  have positive : len.toNat ≠ 0 := by rw [length]; exact mt List.eq_nil_of_length_eq_zero nonempty
  have header := State.feedDown_sendHeader reading positive descs valid down on queue
  have empty : Buffer.Stored s.buffer.freeBlocks [] { s.buffer with freeDescs := ds } := ⟨canonical, rfl, rfl⟩
  obtain ⟨b, p, stored, fed⟩ := State.feedDown_payloads (s := s)
    (r := DownKind.send.headEndRecord len.toNat station (s.station station) d) conserved.freeBlocks_nodup
    (length ▸ room) nonempty empty length.symm
  have all : (0x41 :: len :: station :: payload).foldl State.feedDown s =
      payload.foldl State.feedDown ([0x41, len, station].foldl State.feedDown s) := rfl
  rw [all, header]
  refine ⟨_, { DownKind.send.headEndRecord len.toNat station (s.station station) d with
      chain := s.buffer.freeBlocks.take (blocksFor len.toNat) },
    fed.trans (State.appendDown_waiting on queue waits), rfl, ?_, rfl, rfl, rfl, rfl, rfl, length, ?_, ?_,
    stored.blocks, rfl⟩
  · exact congrArg Line.downQueue (State.modLine_line_self _ _ _)
  · show (s.buffer.freeBlocks.take (blocksFor len.toNat)).length = _
    rw [List.length_take, length, blocksFor]
    omega
  · show b.payload (s.buffer.freeBlocks.take (blocksFor len.toNat)) len.toNat = payload
    rw [length]
    exact stored.payload

end Sys2Proof.Machine
end

section
/-! SUPPORT. The slots of the upstream frame: a data slot by its owner's stream (O6), the management slot by the management stream (O7), and what the end of a response brings about (O8). -/

namespace Sys2Proof.Machine

/-! ### The octets of a record -/

/-- An upstream record as it is sent: its header and then its payload (R95). -/
def UpRecord.octets (r : UpRecord) (b : Buffer) : List Octet := r.header ++ b.payload r.chain r.length

theorem UpRecord.length_octets (r : UpRecord) (b : Buffer) : (r.octets b).length = r.octetsSent := by
  simp [UpRecord.octets, UpRecord.octetsSent, Buffer.payload]

theorem UpRecord.octet_zero (r : UpRecord) (b : Buffer) : r.octet b 0 = r.kind.octet := rfl

theorem UpRecord.octet_eq_getD {r : UpRecord} {b : Buffer} {j : Nat} (inside : j < (r.octets b).length) :
    r.octet b j = (r.octets b).getD j 0x00 := by
  rw [UpRecord.length_octets, UpRecord.octetsSent] at inside
  rw [UpRecord.octet, UpRecord.octets]
  by_cases header : j < r.header.length
  · rw [if_pos header, List.getD_append _ _ _ _ header, Config.fill]
  · rw [if_neg header, List.getD_append_right _ _ _ _ (by omega)]
    simp [Buffer.payload, List.getD, List.getElem?_range (show j - r.header.length < r.length by omega)]

/-! ### Data slots -/

theorem exec_upstreamDataSlot {s : State} {k : SlotNo} (place : s.framer.txOctets.length = k.val + 2) :
    exec .upstreamDataSlot s = .next (s.dataSlot k) := by
  have inFrame : 2 ≤ s.framer.txOctets.length ∧ s.framer.txOctets.length < 30 := by omega
  have slot : (⟨s.framer.txOctets.length - 2, by omega⟩ : SlotNo) = k := Fin.ext (by simp [place])
  change execUpstreamDataSlot s = _
  rw [execUpstreamDataSlot, dif_pos inFrame, slot]

theorem State.slotOwner_eq (s : State) (k : SlotNo) :
    s.slotOwner k =
      if ((s.slots.banks[s.slots.active])[k]).frames.getLsbD s.framer.sentNumber.toNat = true then
        ((s.slots.banks[s.slots.active])[k]).owner
      else none := rfl

/-- A data slot carries fill while the streams are STOPPED, and when it belongs to no line (R96). -/
theorem State.dataSlot_fill {s : State} {k : SlotNo} (h : s.framer.running = false ∨ s.slotOwner k = none) :
    s.dataSlot k = s.sendOctet Config.fill := by
  rcases h with h | h <;> simp [State.dataSlot, h]

theorem State.dataSlot_owned {s : State} {k : SlotNo} {n : LineNo} (running : s.framer.running = true)
    (owner : s.slotOwner k = some n) : s.dataSlot k = s.lineSlot n := by
  simp [State.dataSlot, running, owner]

theorem State.lineSlot_restartPending {s : State} {n : LineNo} (pos : (s.line n).pos = .restartPending) :
    s.lineSlot n = s.sendOctet Config.fill := by
  simp [State.lineSlot, pos]

theorem State.lineSlot_empty {s : State} {n : LineNo} (pos : (s.line n).pos = .idle)
    (queue : (s.line n).upQueue = []) : s.lineSlot n = s.sendOctet Config.fill := by
  simp [State.lineSlot, pos, queue]

/-- An IDLE stream with a record begins it with its kind (R95, R96). -/
theorem State.lineSlot_begins {s : State} {n : LineNo} {r : UpRecord} {rest : List UpRecord}
    (pos : (s.line n).pos = .idle) (queue : (s.line n).upQueue = r :: rest) :
    s.lineSlot n = (s.sendOctet r.kind.octet).setPos n (.sending 1) := by
  simp [State.lineSlot, pos, queue, UpRecord.octet_zero]

/-- A stream within a record goes on with the octet at its offset (R96). -/
theorem State.lineSlot_goesOn {s : State} {n : LineNo} {r : UpRecord} {rest : List UpRecord} {j : Nat}
    (pos : (s.line n).pos = .sending j) (queue : (s.line n).upQueue = r :: rest)
    (more : j + 1 < (r.octets s.buffer).length) :
    s.lineSlot n = (s.sendOctet ((r.octets s.buffer).getD j 0x00)).setPos n (.sending (j + 1)) := by
  have unsent : ¬ r.octetsSent ≤ j + 1 := by rw [← r.length_octets s.buffer]; omega
  simp only [State.lineSlot, pos, queue, if_neg unsent]
  rw [UpRecord.octet_eq_getD (by omega)]

/-- The record whose last octet is sent leaves the queue and is released (R97). -/
theorem State.lineSlot_ends {s : State} {n : LineNo} {r : UpRecord} {rest : List UpRecord} {j : Nat}
    (pos : (s.line n).pos = .sending j) (queue : (s.line n).upQueue = r :: rest)
    (last : j + 1 = (r.octets s.buffer).length) :
    s.lineSlot n = (s.sendOctet ((r.octets s.buffer).getD j 0x00)).recordSent n r rest := by
  have sent : r.octetsSent ≤ j + 1 := by rw [← r.length_octets s.buffer]; omega
  simp only [State.lineSlot, pos, queue, if_pos sent]
  rw [UpRecord.octet_eq_getD (by omega)]

/-- Settles O6: the slot is its owner's, and the owner's stream goes on by its position and its queue. -/
theorem dataSlotSendsTheOwnersOctet : Obligations.DataSlotSendsTheOwnersOctet := by
  intro s k place sent entry
  have owner : s.slotOwner k = if entry.frames.getLsbD s.framer.sentNumber.toNat = true then entry.owner else none :=
    s.slotOwner_eq k
  have fills (h : s.framer.running = false ∨ s.slotOwner k = none) : exec .upstreamDataSlot s = .next (sent 0x00) := by
    rw [exec_upstreamDataSlot place, State.dataSlot_fill h]; rfl
  refine ⟨fun stopped => fills (.inl stopped), fun unassigned => fills (.inr ?_), fun notInFrame => fills (.inr ?_),
    fun n running assigned inFrame => ?_⟩
  · rw [owner, unassigned, ite_self]
  · rw [owner, notInFrame, if_neg Bool.false_ne_true]
  · have sends : exec .upstreamDataSlot s = .next (s.lineSlot n) := by
      rw [exec_upstreamDataSlot place, State.dataSlot_owned running (by rw [owner, if_pos inFrame, assigned])]
    rw [sends]
    refine ⟨fun pos => ?_, fun pos queue => ?_, fun r rest queue => ⟨fun pos => ?_, fun j pos =>
      ⟨fun more => ?_, fun last => ?_⟩⟩⟩
    · rw [State.lineSlot_restartPending pos]; rfl
    · rw [State.lineSlot_empty pos queue]; rfl
    · rw [State.lineSlot_begins pos queue]; rfl
    · rw [State.lineSlot_goesOn pos queue more]; rfl
    · rw [State.lineSlot_ends pos queue last]; rfl

/-! ### The management slot -/

theorem exec_managementSlot {s : State} (place : s.framer.txOctets.length = 30) :
    exec .managementSlot s = .next s.managementSlot := by
  change execManagementSlot s = _
  rw [execManagementSlot, if_pos place]

/-- The management slot carries fill while the streams are STOPPED, and when no response waits (R100). -/
theorem State.managementSlot_fill {s : State} (h : s.framer.running = false ∨ s.mgmt.responses = []) :
    s.managementSlot = s.sendOctet Config.fill := by
  rcases h with h | h <;> simp [State.managementSlot, h]

section
variable {s : State} {r : Response} {rest : List Response} (running : s.framer.running = true)
  (queue : s.mgmt.responses = r :: rest)
include running queue

/-- An IDLE management stream begins the head response, whose first octet is 01h (R100). -/
theorem State.managementSlot_begins (pos : s.serializer.mgmtPos = .idle) :
    s.managementSlot = { s.sendOctet 0x01 with serializer := { s.serializer with mgmtPos := .sending 1 } } := by
  simp only [State.managementSlot, running, queue, pos, if_true]
  rfl

/-- A management stream within a response goes on with the octet at its offset (R100). -/
theorem State.managementSlot_goesOn {j : Nat} (pos : s.serializer.mgmtPos = .sending j)
    (more : j + 1 < r.octets.length) :
    s.managementSlot =
      { s.sendOctet (r.octets.getD j 0x00) with serializer := { s.serializer with mgmtPos := .sending (j + 1) } } := by
  simp only [State.managementSlot, running, queue, pos, if_true, if_neg (Nat.not_le.mpr more)]
  rfl

/-- The last octet of a response ends it (R101). -/
theorem State.managementSlot_ends {j : Nat} (pos : s.serializer.mgmtPos = .sending j)
    (last : j + 1 = r.octets.length) :
    s.managementSlot = (s.sendOctet (r.octets.getD j 0x00)).responseEnd r rest := by
  simp only [State.managementSlot, running, queue, pos, if_true, if_pos last.ge]
  rfl

end

/-- The response that has been sent has left the queue, and the management stream is IDLE (R101). -/
def State.responseSent (s : State) (rest : List Response) : State :=
  { s with mgmt := { s.mgmt with responses := rest }, serializer := { s.serializer with mgmtPos := .idle } }

section
variable {r : Response} (s : State) (rest : List Response)

theorem State.responseEnd_nothing (governs : r.governs = .nothing) :
    s.responseEnd r rest = s.responseSent rest := by
  simp only [State.responseEnd, governs]
  rfl

/-- A full reset gives the responses and the management stream their reset values: what the end of the response did to
them is not seen (R171). -/
theorem State.responseEnd_deviceReset (governs : r.governs = .deviceReset) :
    s.responseEnd r rest = s.afterFullReset .command := by
  simp only [State.responseEnd, governs]
  rfl

theorem State.responseEnd_quietEntry (governs : r.governs = .quietEntry) :
    s.responseEnd r rest = (s.responseSent rest).beginQuiet := by
  simp only [State.responseEnd, governs]
  rfl

/-- A hold that is in force goes on to the start of the next frame (R105). -/
theorem State.responseEnd_lineRelease (governs : r.governs = .lineRelease) :
    s.responseEnd r rest =
      { s.responseSent rest with
        serializer :=
          { mgmtPos := .idle
            lineHold := if s.serializer.lineHold = .inForce then .ending else s.serializer.lineHold } } := by
  simp only [State.responseEnd, governs]
  by_cases hold : s.serializer.lineHold = .inForce
  · rw [if_pos hold, if_pos hold]; rfl
  · rw [if_neg hold, if_neg hold]; rfl

end

/-- Settles O7: the management stream goes on by its position, and its last octet ends the response. -/
theorem managementSlotSendsTheHeadResponse : Obligations.ManagementSlotSendsTheHeadResponse := by
  intro s place sent
  rw [exec_managementSlot place]
  refine ⟨fun stopped => ?_, fun empty => ?_, fun r rest running queue => ⟨fun pos => ?_, fun j pos =>
    ⟨fun more => ?_, fun last governs => ?_⟩⟩⟩
  · rw [State.managementSlot_fill (.inl stopped)]; rfl
  · rw [State.managementSlot_fill (.inr empty)]; rfl
  · rw [State.managementSlot_begins running queue pos]; rfl
  · rw [State.managementSlot_goesOn running queue pos more]; rfl
  · rw [State.managementSlot_ends running queue pos last, State.responseEnd_nothing _ _ governs]; rfl

/-! ### Quiet entry begins -/

/-- The framer at the beginning of Quiet entry, before the parsers and the streams are told (R11). -/
def State.framerQuiet (s : State) : State := { s with framer := { s.framer with rx := .quiet, rxBits := [] } }

theorem State.beginQuiet_eq (s : State) : s.beginQuiet = s.framerQuiet.parsersWait.checkStreams := rfl

theorem State.beginQuiet_framer (s : State) :
    s.beginQuiet.framer = { s.framer with rx := .quiet, rxBits := [], running := false } := by
  have framer : s.framerQuiet.parsersWait.framer = s.framerQuiet.framer := (State.BesideParsers.parsersWait _).framer
  have disabled : s.framerQuiet.framer.transmitEnable = false := rfl
  rw [State.beginQuiet_eq, State.checkStreams_framer, framer, disabled, Bool.and_false]
  rfl

theorem State.beginQuiet_parse (s : State) :
    s.beginQuiet.parser.parse = .waitRestart ∧ s.beginQuiet.mgmt.parse = .waitRestart := by
  obtain ⟨parser, mgmt, -⟩ := s.framerQuiet.parsersWait.checkStreams_rest
  rw [State.beginQuiet_eq, parser, mgmt]
  exact State.parsersWait_parse _

/-- Quiet entry's first half keeps the responses that wait and leaves Quiet Control to the end of the frame (R177). -/
theorem State.beginQuiet_kept (s : State) :
    s.beginQuiet.mgmt.responses = s.mgmt.responses ∧ s.beginQuiet.quiet = s.quiet := by
  obtain ⟨-, mgmt, -, -, -, quiet⟩ := s.framerQuiet.parsersWait.checkStreams_rest
  have beside := State.BesideParsers.parsersWait s.framerQuiet
  rw [State.beginQuiet_eq, mgmt, quiet]
  exact ⟨beside.responses, beside.quiet⟩

/-- Streams that run are broken off at Quiet entry (R13, R102). -/
theorem State.beginQuiet_streams {s : State} (running : s.framer.running = true) :
    s.beginQuiet.serializer.mgmtPos = s.serializer.mgmtPos.breakOff ∧
      ∀ (n : LineNo) (k : Nat), (s.beginQuiet.line n).pos ≠ .sending k := by
  have beside := State.BesideParsers.parsersWait s.framerQuiet
  have stillRunning : s.framerQuiet.parsersWait.framer.running = true := by rw [beside.framer]; exact running
  have disabled : s.framerQuiet.parsersWait.framer.transmitEnable = false := by rw [beside.framer]; rfl
  refine ⟨?_, State.checkStreams_pos stillRunning disabled⟩
  rw [State.beginQuiet_eq, State.checkStreams_stops stillRunning disabled]
  exact congrArg (fun z => z.mgmtPos.breakOff) beside.serializer

/-- Settles O8: the last octet ends the response, and each event by the lemma of its kind. -/
theorem responseEndBringsItsEvent : Obligations.ResponseEndBringsItsEvent := by
  intro s r rest j place running queue pos last octets
  rw [exec_managementSlot place, State.managementSlot_ends running queue pos last]
  refine ⟨fun governs => ?_, fun governs => ?_, fun governs => ?_⟩
  · rw [State.responseEnd_deviceReset _ _ governs]; rfl
  · rw [State.responseEnd_lineRelease _ _ governs]; rfl
  · rw [State.responseEnd_quietEntry _ _ governs]
    set u := (s.sendOctet (r.octets.getD j 0x00)).responseSent rest
    have framer := u.beginQuiet_framer
    obtain ⟨down, command⟩ := u.beginQuiet_parse
    obtain ⟨responses, quiet⟩ := u.beginQuiet_kept
    obtain ⟨mgmtPos, broken⟩ := State.beginQuiet_streams (s := u) running
    exact ⟨u.beginQuiet, rfl, congrArg Framer.rx framer, congrArg Framer.running framer,
      congrArg Framer.txOctets framer, down, command, responses, mgmtPos, quiet, broken⟩

end Sys2Proof.Machine
end

section
/-! SUPPORT. The Slot Map's commands (O35): Write Slot, Read Slot and Swap Banks, by their judgements. -/

namespace Sys2Proof.Machine

theorem ownerOf_eq_none {o : Octet} (line : 7 < o.toNat) (unassigned : o ≠ 0xFF) : ownerOf o = none := by
  rw [ownerOf, if_neg unassigned, finOf_eq_none (by omega), Option.map_none]

/-! ### Judgements -/

/-- A Write Slot of an entry writes the shadow bank, unless a swap is pending (R91). -/
theorem judgeWriteSlot_entry (tag : Octet) (k : SlotNo) (e : SlotEntry) (s : State) :
    judgeWriteSlot (.plain 0x30 tag ([natOctet k.val, ownerOctet e.owner] ++ halfOctets e.frames)) s =
      if s.slots.swapPending = true then refuse s .busy
      else accept { s with slots := s.slots.writeShadow k e } [] := by
  simp [judgeWriteSlot, Command.plain, halfOctets, finOf_natOctet, halfOf_parts]

theorem judgeWriteSlot_range (tag hi lo : Octet) {slot o : Octet}
    (h : 27 < slot.toNat ∨ (7 < o.toNat ∧ o ≠ 0xFF)) (s : State) :
    judgeWriteSlot (.plain 0x30 tag [slot, o, hi, lo]) s = refuse s .range := by
  simp only [judgeWriteSlot, Command.plain]
  split
  · rename_i place owner
    rcases h with h | ⟨line, unassigned⟩
    · rw [finOf_eq_none h] at place; cases place
    · rw [ownerOf_eq_none line unassigned] at owner; cases owner
  · rfl
  · rfl

/-- A Read Slot gives the entry, the active-bank index and the swap-pending flag (R92, R191). -/
theorem judgeReadSlot_entry (tag : Octet) (b : Fin 2) (k : SlotNo) (s : State) :
    judgeReadSlot (.plain 0x31 tag [natOctet b.val, natOctet k.val]) s =
      accept s
        ([ownerOctet ((s.slots.banks[b])[k]).owner] ++ halfOctets ((s.slots.banks[b])[k]).frames ++
          [natOctet s.slots.active.val, boolOctet s.slots.swapPending]) := by
  simp only [judgeReadSlot, Command.plain, finOf_natOctet b (by omega), finOf_natOctet k (by omega)]

/-! ### Rows -/

/-- Settles O35: each command by its judgement. -/
theorem slotMapCommands : Obligations.SlotMapCommands := by
  intro s rest tag k owner frames
  refine ⟨?write, ?read, ?swap, ?readRange, ?writeRange⟩
  case write =>
    rintro c rfl due
    have judged := judgeWriteSlot_entry tag k { owner := owner, frames := frames } (s.dequeued rest)
    refine ⟨fun pending => ?_, fun free =>
      ⟨(s.slots.writeShadow k { owner := owner, frames := frames }).banks, ?_, s.slots.writeShadow_entry k _⟩⟩
    · exact congrArg Host.Outcome.next
        (State.execute_refused due (hasCode_plain ..) (judged.trans (if_pos pending)))
    · exact congrArg Host.Outcome.next
        (State.execute_accepted due (hasCode_plain ..)
          (judged.trans (if_neg (Bool.eq_false_iff.mp free))))
  case read =>
    rintro c b rfl due
    exact congrArg Host.Outcome.next
      (State.execute_accepted due (hasCode_plain ..) (judgeReadSlot_entry tag b k (s.dequeued rest)))
  case swap =>
    rintro c rfl due
    exact ⟨fun pending => congrArg Host.Outcome.next
        (State.execute_refused due (hasCode_plain ..) (if_pos pending)),
      fun free => congrArg Host.Outcome.next
        (State.execute_accepted due (hasCode_plain ..) (if_neg (Bool.eq_false_iff.mp free)))⟩
  case readRange =>
    rintro c bank slot rfl due out
    exact congrArg Host.Outcome.next
      (State.execute_refused due (hasCode_plain ..) (judgeReadSlot_range tag out _))
  case writeRange =>
    rintro c slot o hi lo rfl due out
    exact congrArg Host.Outcome.next
      (State.execute_refused due (hasCode_plain ..) (judgeWriteSlot_range tag hi lo out _))

end Sys2Proof.Machine
end

section
/-! SUPPORT. The Downstream Parser between records (O14): the three kinds, and an unknown kind's record skipped octet by octet. -/

namespace Sys2Proof.Machine

/-! ### The kind octet -/

section
variable {s : State}

theorem State.feedDown_fill (between : s.parser.parse = .between) : s.feedDown Config.fill = s := by
  simp only [State.feedDown, between, if_true]

/-- A kind octet is no fill, and begins a record of its kind (R109). -/
theorem State.feedDown_kind (between : s.parser.parse = .between) {o : Octet} {k : DownKind}
    (kind : DownKind.ofOctet o = some k) : s.feedDown o = s.setParse (.header k none) := by
  have nonzero : o ≠ Config.fill := by
    rintro rfl
    have noKind : DownKind.ofOctet Config.fill = none := by decide
    cases noKind.symm.trans kind
  simp only [State.feedDown, between, if_neg nonzero, kind]

theorem DownKind.ofOctet_eq_none {o : Octet} (h : o ∉ ([0x00, 0x41, 0x42, 0x43] : List Octet)) :
    DownKind.ofOctet o = none := by
  simp only [List.mem_cons, List.not_mem_nil, or_false, not_or] at h
  obtain ⟨-, send, sendReply, sendBreak⟩ := h
  simp only [DownKind.ofOctet, if_neg send, if_neg sendReply, if_neg sendBreak]

/-- A record of an unknown kind is discarded at its kind octet (R109, R115). -/
theorem State.feedDown_unknown (between : s.parser.parse = .between) {kind : Octet}
    (unknown : kind ∉ ([0x00, 0x41, 0x42, 0x43] : List Octet)) :
    s.feedDown kind = s.discardDown .badKind (.skip none) := by
  have nonzero : kind ≠ Config.fill := fun fill => unknown (by simp [fill, Config.fill])
  simp only [State.feedDown, between, if_neg nonzero, DownKind.ofOctet_eq_none unknown]

/-! ### The skip -/

/-- The skip of a record begins with its length octet, and takes its station octet and its payload (R109, R113). -/
theorem State.feedDown_skipLength (skipping : s.parser.parse = .skip none) (len : Octet) :
    s.feedDown len = s.setParse (.skip (some (len.toNat + 1))) := by
  simp only [State.feedDown, skipping]

theorem State.feedDown_skip {n : Nat} (skipping : s.parser.parse = .skip (some n)) (o : Octet) :
    s.feedDown o = s.setParse (afterSkip (n - 1)) := by
  simp only [State.feedDown, skipping]

theorem State.setParse_setParse (s : State) (p q : DownParse) : (s.setParse p).setParse q = s.setParse q := rfl

/-- A skip takes the octets it has left, and leaves the parser between records (R113). -/
theorem State.feedDown_skips (octets : List Octet) (nonempty : octets ≠ []) (s : State) :
    octets.foldl State.feedDown (s.setParse (.skip (some octets.length))) = s.setParse .between := by
  induction octets with
  | nil => exact absurd rfl nonempty
  | cons o os ih =>
    rw [List.foldl_cons, State.feedDown_skip rfl, State.setParse_setParse, List.length_cons, Nat.add_sub_cancel]
    cases os with
    | nil => rfl
    | cons p ps => exact ih (List.cons_ne_nil p ps)

end

/-- Settles O14: the parser by its kind octet (`State.feedDown_kind`, `State.feedDown_unknown`), and the skip by induction on its
octets (`State.feedDown_skips`). -/
theorem parserReadsKindsAndSkips : Obligations.ParserReadsKindsAndSkips := by
  intro s between
  refine ⟨State.feedDown_fill between, State.feedDown_kind between rfl, State.feedDown_kind between rfl,
    State.feedDown_kind between rfl, fun kind len rest unknown length => ?_⟩
  intro discarded
  have bad : s.feedDown kind = discarded (.skip none) := State.feedDown_unknown between unknown
  have nonempty : rest ≠ [] := List.ne_nil_of_length_eq_add_one length
  refine ⟨bad, ?_⟩
  calc (kind :: len :: rest).foldl State.feedDown s
      = rest.foldl State.feedDown ((discarded (.skip none)).setParse (.skip (some rest.length))) := by
        rw [List.foldl_cons, List.foldl_cons, bad, State.feedDown_skipLength rfl, length]
    _ = discarded .between := State.feedDown_skips rest nonempty _

end Sys2Proof.Machine
end

section
/-! SUPPORT. The end of a downstream record (O28). -/

namespace Sys2Proof.Machine

/-- While a record is being sent, the end of its last element is the record's end (R119). -/
theorem exec_transmitRecordEnd {s : State} {n : LineNo} {r : DownRecord} {rest : List DownRecord}
    (sending : (s.line n).sending = true) (queue : (s.line n).downQueue = r :: rest) :
    exec (.transmitRecordEnd n) s = .next (s.recordEnd n r rest) := by
  show execTransmitRecordEnd n s = _
  rw [execTransmitRecordEnd, if_pos sending, queue]

/-- Settles O28: the end of a record by its reply flag, a drain's end as `Line.settleDrain_ite` writes it. -/
theorem recordEndReleasesAndWaits : Obligations.RecordEndReleasesAndWaits := by
  intro s n r rest sending queue ended
  refine ⟨fun reply => ?_, fun silent => ?_⟩
  · rw [exec_transmitRecordEnd sending queue, State.recordEnd, if_pos reply]
    rfl
  · have drained := congrArg (ended.modLine n) (funext Line.settleDrain_ite)
    rw [exec_transmitRecordEnd sending queue, State.recordEnd, if_neg (Bool.eq_false_iff.mp silent)]
    exact congrArg (fun t : State => Host.Outcome.next (t.pollEnd r.channel .sent)) drained

end Sys2Proof.Machine
end

section
/-! SUPPORT. The step on an empty queue (O2). -/

namespace Sys2Proof.Machine

section
variable {s : State} (idle : s.pending = [])
include idle

/-- On an empty queue an expiry that is due takes place (log 4). -/
theorem step_due {i : Instr} (due : s.dueExpiry = some i) : step s = exec i s := by
  rw [step_idle idle, due]

/-- On an empty queue a millisecond passes when no expiry is due (log 4). -/
theorem step_tick (calm : s.dueExpiry = none) : step s = .next s.tick := by
  rw [step_idle idle, calm]

end

/-- Settles O2: the expiry that is due in each case, from the laws of the clock. -/
theorem idleStepCountsAMillisecond : Obligations.IdleStepCountsAMillisecond := by
  intro s idle reply interval
  have noReply {n : LineNo} (h : ¬reply n) : (s.line n).replyDue = false :=
    Bool.eq_false_iff.mpr fun due => h ((Line.replyDue_iff _).mp due)
  have noInterval {c : ChannelNo} (h : ¬interval c) : (s.chan c).intervalDue = false :=
    Bool.eq_false_iff.mpr fun due => h ((Channel.intervalDue_iff _).mp due)
  refine ⟨fun stands => ?standing, fun held awake => ?running⟩
  case standing =>
    have still : s.timeRuns = false := by
      refine Bool.eq_false_iff.mpr fun runs => ?_
      obtain ⟨held, awake⟩ := s.timeRuns_iff.mp runs
      rcases stands with stands | quiet
      · exact stands held
      · cases awake.symm.trans quiet
    rw [step_tick idle (State.dueExpiry_standing still), State.tick, if_neg (Bool.eq_false_iff.mp still)]
  case running =>
    have runs : s.timeRuns = true := s.timeRuns_iff.mpr ⟨held, awake⟩
    refine ⟨fun n due first => ?_, fun replies => ⟨fun c due first => ?_, fun intervals => ?_⟩⟩
    · exact step_due idle
        (State.dueExpiry_reply runs ((Line.replyDue_iff _).mpr due) fun m lower => noReply (first m lower))
    · exact step_due idle
        (State.dueExpiry_interval runs (fun n => noReply (replies n)) ((Channel.intervalDue_iff _).mpr due)
          fun d lower => noInterval (first d lower))
    · have last := State.dueExpiry_supervision runs (fun n => noReply (replies n)) fun c => noInterval (intervals c)
      refine ⟨fun elapsed => step_due idle (last.trans (if_pos elapsed)), fun counts => ?_⟩
      rw [step_tick idle (last.trans (if_neg counts)), State.tick, if_pos runs]
      rfl

end Sys2Proof.Machine
end

section
/-! SUPPORT. The errands of a line: the channels of its downstream records, of its wait and of the response in progress; and line work by the errands that it ends and the replies that it begins. -/

namespace Sys2Proof.Machine

/-! ### The errands of a line -/

/-- The channels that a line's downstream errands carry: those of the records queued, of the wait, and of the response
in progress (R108, R120, R66). -/
structure Errands where
  queued : List Octet
  awaited : Option Octet
  answering : Option Octet

/-- The errands of a line. -/
def Line.errands (l : Line) : Errands where
  queued := l.downQueue.map fun r => r.channel
  awaited := l.wait.map fun w => w.channel
  answering := l.respMark.map fun m => m.channel

theorem Line.standing_errands (l : Line) : l.standing.errands = l.errands := by
  simp only [Line.standing, Line.errands, Option.map_map]
  rfl

theorem Line.settleDrain_errands (l : Line) : l.settleDrain.errands = l.errands := by
  rw [Line.settleDrain_eq]
  rfl

theorem Line.closeOpen_errands (c : CloseCause) (l : Line) : (l.closeOpen c).errands = l.errands := by
  unfold Line.closeOpen
  split <;> rfl

theorem Line.errands_of_duties {l m : Line} (h : m.duties.1 = l.duties.1) : m.errands = l.errands := by
  simp only [Line.duties, Prod.mk.injEq] at h
  obtain ⟨-, -, -, queue, wait, mark⟩ := h
  simp only [Line.errands, queue, wait, mark]

/-- From `s` to `t` no errand begins or ends, and no channel changes in what a standing law reads. -/
structure State.SameErrands (s t : State) : Prop where
  lines : ∀ n, (t.line n).errands = (s.line n).errands := by exact fun _ => rfl
  channels : ∀ c, (t.chan c).standing = (s.chan c).standing := by exact fun _ => rfl
  record : t.parser.parse.record = s.parser.parse.record := by rfl

theorem State.SameErrands.modLine (s : State) (n : LineNo) {f : Line → Line}
    (h : (f (s.line n)).errands = (s.line n).errands := by rfl) : s.SameErrands (s.modLine n f) where
  lines m := by
    rw [State.modLine_line]
    split
    · rename_i e; exact e ▸ h
    · rfl

theorem State.SameStanding.sameErrands {s t : State} (h : s.SameStanding t) : s.SameErrands t where
  lines n := by rw [← Line.standing_errands, h.lines n, Line.standing_errands]
  channels := h.channels
  record := h.record

/-! ### Line work, by the errands that it ends and the replies that it begins -/

section
variable {P : State → Prop}

/-- A law that a record's close, LINE_LOSS and the end of a response keep, closing a record keeps (R65, R67). -/
theorem State.closeRecord_keeps {s : State} {n : LineNo} {c : CloseCause} (closed : P (s.modLine n (Line.closeOpen c)))
    (lost : ∀ t, P t → P (t.raise (.lineLoss n))) (ends : ∀ t, P t → P (t.endResponse n)) (hs : P s) :
    P (s.closeRecord n c) := by
  have put : P (if c = .truncated then (s.modLine n (Line.closeOpen c)).raise (.lineLoss n)
      else s.modLine n (Line.closeOpen c)) :=
    iteInduction (fun _ => lost _ closed) fun _ => closed
  unfold State.closeRecord
  split
  · exact hs
  · exact iteInduction (fun _ => put) fun _ => ends _ put

/-- A law that is kept while no errand changes, by the end of a response and by a record that opens, line work keeps. -/
theorem KeptByWork.of_errands (same : ∀ {s t : State}, s.SameErrands t → P s → P t)
    (ends : ∀ s n, P s → P (s.endResponse n))
    (opens : ∀ s n st m d k, P s → P (s.modLine n (Line.openNew st m d k))) : KeptByWork P := by
  have close (s : State) (n : LineNo) (c : CloseCause) (hs : P s) : P (s.closeRecord n c) :=
    State.closeRecord_keeps (same (.modLine s n (Line.closeOpen_errands c _)) hs) (fun _ => same {})
      (fun t => ends t n) hs
  exact {
    same := fun h => same h.sameErrands
    close := close
    clear := fun s n hs => by
      have cleared : P (s.modLine n fun l => { l with cont := none, gapTimer := none }) := same (.modLine s n) hs
      unfold State.clearCont
      split
      · exact hs
      · exact iteInduction (fun _ => ends _ n cleared) fun _ => cleared
    opens := fun s n st m t _ _ hs ht => by
      unfold State.openRecord at ht
      split at ht
      · split at ht <;> cases ht
        exact opens _ n st m _ _ (same (s := s) {} hs)
      · cases ht
    grow := fun s n r t _ hs ht => by
      unfold State.growRecord at ht
      split at ht
      · split at ht <;> cases ht
        exact same (.modLine _ n) (same (s := s) {} hs)
      · cases ht
    append := fun s n e hs => by
      unfold State.appendChar
      split
      · exact hs
      · rename_i r _
        have stored : P ({ s with buffer := s.buffer.storeOctet r.chain r.length e.value }.modLine n fun l =>
            { l with openRec := some (r.append e) }) := same (.modLine _ n) (same (s := s) {} hs)
        exact iteInduction (fun _ => close _ n .maxLength stored) fun _ => stored
    select := fun s n _ _ => same (.modLine s n)
    starve := fun s n hs => same (.modLine _ n) (close s n .truncated hs)
    rouse := fun s n => same (.modLine s n)
    begins := fun s n _ _ => same (.modLine s n)
    stopGap := fun s n _ _ => same (.modLine s n) }

end

end Sys2Proof.Machine
end

section
/-! SUPPORT. The laws of the poll channels, kept by every step (O57, first part): a channel's count, and the one outstanding channel of a line. -/

namespace Sys2Proof.Machine

/-! ### Channels that ease -/

/-- From one state of a channel to another its settings and its count stay, and it may cease to be ARMED and to be
outstanding, but becomes neither (R133, R139, R148). -/
structure Channel.Eases (c d : Channel) : Prop where
  settings : d.settings = c.settings
  count : d.count = c.count
  armed : d.armed = true → c.armed = true
  outstanding : d.outstanding = true → c.outstanding = true

theorem Channel.Eases.of_standing {c d : Channel} (h : d.standing = c.standing) : c.Eases d where
  settings := (congrArg Channel.settings h :)
  count := (congrArg Channel.count h :)
  armed := ((congrArg Channel.armed h :) ▸ ·)
  outstanding := ((congrArg Channel.outstanding h :) ▸ ·)

theorem Channel.Eases.endRecord (o : PollOutcome) (c : Channel) : c.Eases (c.endRecord o) := by
  unfold Channel.endRecord
  split <;> exact ⟨rfl, rfl, id, nofun⟩

theorem Channel.Eases.masked (c : Channel) : c.Eases c.masked := ⟨rfl, rfl, nofun, id⟩

/-- From `s` to `t` every channel eases. -/
def State.ChannelsEase (s t : State) : Prop := ∀ c, (s.chan c).Eases (t.chan c)

/-- A change beside the channels. -/
theorem State.ChannelsEase.aside {s t : State} (h : ∀ c, t.chan c = s.chan c := by exact fun _ => rfl) :
    s.ChannelsEase t := fun c => .of_standing (congrArg Channel.standing (h c))

theorem State.ChannelsEase.modChan (s : State) (c : ChannelNo) {f : Channel → Channel}
    (h : (s.chan c).Eases (f (s.chan c))) : s.ChannelsEase (s.modChan c f) := fun d => by
  rw [State.modChan_chan]
  split
  · rename_i e; exact e ▸ h
  · exact .of_standing rfl

theorem State.ChannelsEase.pollEnd (s : State) (k : Octet) (o : PollOutcome) : s.ChannelsEase (s.pollEnd k o) := by
  unfold State.pollEnd
  split
  · exact .modChan s _ (.endRecord o _)
  · exact .aside

section
variable {P : State → Prop}

/-- A law of the channels that no easing breaks, line work keeps. -/
theorem KeptByWork.of_channels (kept : ∀ s t, s.ChannelsEase t → P s → P t) : KeptByWork P :=
  .of_errands (fun h => kept _ _ fun c => .of_standing (h.channels c))
    (fun s n hs => by
      unfold State.endResponse
      split
      · exact hs
      · exact kept _ _ (.pollEnd _ _ _) (kept _ _ .aside hs))
    (fun _ _ _ _ _ _ => kept _ _ .aside)

theorem KeptByWork.recordEnd_channels (h : KeptByWork P) (kept : ∀ s t, s.ChannelsEase t → P s → P t) {s : State}
    {n : LineNo} (r : DownRecord) (rest : List DownRecord) (hs : P s) : P (s.recordEnd n r rest) := by
  have released : P ((s.modLine n (Line.elementEnded rest)).release r.chain r.desc) := h.release (kept s _ .aside hs)
  unfold State.recordEnd
  exact iteInduction (fun _ => kept _ _ .aside released)
    fun _ => kept _ _ (.pollEnd _ _ _) (kept _ _ .aside released)

theorem KeptByWork.flush_channels (h : KeptByWork P) (kept : ∀ s t, s.ChannelsEase t → P s → P t) {s : State}
    (n : LineNo) (hs : P s) : P (s.flush n) := by
  by_cases gone : (s.line n).flushed = []
  · rwa [State.flush_nothing gone]
  · have woken : P (s.flushReturned n).wakePass := h.wakePass (kept s _ .aside hs)
    rw [State.flush_some gone]
    exact kept _ _ .aside (foldl_keeps (fun _ _ hu => kept _ _ (.pollEnd _ _ _) hu) _ woken)

/-- A law of the channels that no easing breaks, nor a grant to an eligible channel, a channel command or a reset, every
step keeps. -/
theorem KeptByRows.of_channels (kept : ∀ s t, s.ChannelsEase t → P s → P t)
    (granted : ∀ s c, s.eligible c = true → P s → P (s.modChan c Channel.afterGrant))
    (arm : ∀ s c, P s → P (s.modChan c Channel.arm))
    (configure : ∀ s c p, (s.chan c).inUse = false → p.Lawful → P s → P (s.modChan c (Channel.configure p)))
    (fullReset : ∀ s c, P s → P (s.fullReset c)) (linesReset : ∀ s, P s → P s.linesReset) : KeptByRows P where
  toKeptByWork := .of_channels kept
  claim _ _ _ _ _ _ _ _ _ := kept _ _ .aside
  grown _ _ _ _ _ _ _ := kept _ _ .aside
  stored _ _ _ _ _ := kept _ _ .aside
  dropped _ _ _ _ _ _ := kept _ _ .aside
  queued _ _ _ _ _ _ := kept _ _ .aside
  sent _ _ _ _ _ := kept _ _ .aside
  recordEnd _ _ r rest _ _ := (KeptByWork.of_channels kept).recordEnd_channels kept r rest
  noReply _ _ _ _ _ _ := kept _ _ .aside
  expired _ _ _ _ _ hs := kept _ _ (.pollEnd _ _ _) (kept _ _ .aside hs)
  transmitterOn _ _ := kept _ _ .aside
  transmitterOff _ _ := kept _ _ .aside
  flush _ n := (KeptByWork.of_channels kept).flush_channels kept n
  granted s c _ _ _ _ _ eligible _ _ hs := kept (s.modChan c Channel.afterGrant) _ .aside (granted s c eligible hs)
  mask s c := kept _ _ (.modChan s c (.masked _))
  maskAll s := kept _ _ fun c => by rw [State.mapChans_chan]; exact .masked _
  arm := arm
  configure := configure
  setStation _ _ _ _ _ := kept _ _ .aside
  fullReset := fullReset
  linesReset := linesReset

end

theorem State.linesReset_chan (s : State) (c : ChannelNo) : s.linesReset.chan c = (s.chan c).linesReset := by
  have before : (s.mapLines Line.linesReset).linesResetParser.chan c = s.chan c := by
    unfold State.linesResetParser
    split <;> rfl
  rw [← before]
  exact State.mapChans_chan _ Channel.linesReset c

theorem State.fullReset_chan (s : State) (cause : Cause) (c : ChannelNo) : (s.fullReset cause).chan c = .reset :=
  reset_chan c

/-! ### Counts -/

/-- The law of counts, of one channel (R133). -/
structure Channel.CountLawful (c : Channel) : Prop where
  base : 1 ≤ c.settings.baseCount
  count : c.count ≤ c.settings.baseCount
  armed : c.armed = true → 1 ≤ c.count

theorem State.countsLawful_iff (s : State) : s.CountsLawful ↔ ∀ c, (s.chan c).CountLawful :=
  forall_congr' fun _ => ⟨fun ⟨base, count, armed⟩ => ⟨base, count, armed⟩, fun h => ⟨h.base, h.count, h.armed⟩⟩

theorem Channel.CountLawful.eased {c d : Channel} (h : c.CountLawful) (e : c.Eases d) : d.CountLawful where
  base := e.settings ▸ h.base
  count := by rw [e.count, e.settings]; exact h.count
  armed hd := e.count ▸ h.armed (e.armed hd)

/-- A channel that starts its stretch afresh has its base count (R134, R138). -/
theorem Channel.CountLawful.full {c : Channel} (base : 1 ≤ c.settings.baseCount)
    (count : c.count = c.settings.baseCount) : c.CountLawful := ⟨base, count.le, fun _ => count ▸ base⟩

/-- A grant takes one from the count; at its terminal count a channel is reloaded, or MASKED (R145, R147). -/
theorem Channel.CountLawful.afterGrant {c : Channel} (h : c.CountLawful) : c.afterGrant.CountLawful := by
  have settings : c.granted.settings = c.settings := rfl
  have less : c.granted.count ≤ c.settings.baseCount := (Nat.sub_le _ _).trans h.count
  unfold Channel.afterGrant
  dsimp only
  split
  · rename_i spent
    unfold Channel.terminal
    split
    · exact .full h.base rfl
    · exact ⟨h.base, less, nofun⟩
  · rename_i left
    exact ⟨h.base, less, fun _ => Nat.pos_of_ne_zero left⟩

theorem State.eachChannel_modChan {C : Channel → Prop} {s : State} {c : ChannelNo} {f : Channel → Channel}
    (hs : ∀ d, C (s.chan d)) (here : C (f (s.chan c))) (d : ChannelNo) : C ((s.modChan c f).chan d) := by
  rw [State.modChan_chan]
  split
  · exact here
  · exact hs d

theorem countsLawful_rows : KeptByRows fun s => ∀ c, (s.chan c).CountLawful :=
  .of_channels (fun _ _ e hs c => (hs c).eased (e c))
    (fun _ c _ hs => State.eachChannel_modChan hs (hs c).afterGrant)
    (fun _ c hs => State.eachChannel_modChan hs (.full (hs c).base rfl))
    (fun _ _ _ _ ⟨base, _⟩ hs => State.eachChannel_modChan hs (.full base rfl))
    (fun s cause _ c => by
      rw [State.fullReset_chan]
      exact ⟨Nat.le_refl 1, Nat.zero_le 1, nofun⟩)
    (fun s hs c => by
      rw [State.linesReset_chan]
      exact .full (hs c).base rfl)

/-! ### One outstanding channel on a line -/

/-- No channel aimed at the line of an eligible one is outstanding (R141, condition 4). -/
theorem State.eligible_alone {s : State} {c : ChannelNo} (h : s.eligible c = true) (d : ChannelNo)
    (outstanding : (s.chan d).outstanding = true) : (s.chan d).settings.target ≠ (s.chan c).settings.target := by
  intro same
  have polled : s.lineHasPoll (s.chan c).settings.target = true :=
    List.any_eq_true.mpr ⟨d, mem_allChannels d, by rw [outstanding, same]; simp⟩
  simp [State.eligible, polled] at h

theorem Channel.afterGrant_outstanding (c : Channel) :
    c.afterGrant.outstanding = true ∧ c.afterGrant.settings = c.settings := by
  unfold Channel.afterGrant Channel.terminal
  dsimp only
  split
  · split <;> exact ⟨rfl, rfl⟩
  · exact ⟨rfl, rfl⟩

/-- A channel that is not in use is not outstanding (R134). -/
theorem Channel.idle_outstanding {c : Channel} (h : c.inUse = false) : c.outstanding = false := by
  simp only [Channel.inUse, Bool.or_eq_false_iff] at h
  obtain ⟨⟨-, quiet⟩, -⟩ := h
  exact quiet

/-- A law of two outstanding channels of a line breaks only when a channel becomes outstanding or changes its line. -/
theorem State.OnePollPerLine.eased {s t : State} (e : s.ChannelsEase t) (h : s.OnePollPerLine) : t.OnePollPerLine := by
  intro c d hc hd same
  rw [(e c).settings, (e d).settings] at same
  exact h c d ((e c).outstanding hc) ((e d).outstanding hd) same

/-- A channel that changes in any way, as long as no other on its line is outstanding. -/
theorem State.OnePollPerLine.modChan {s : State} {c : ChannelNo} {f : Channel → Channel}
    (alone : (f (s.chan c)).outstanding = true → ∀ d, (s.chan d).outstanding = true → c ≠ d →
      (s.chan d).settings.target ≠ (f (s.chan c)).settings.target)
    (h : s.OnePollPerLine) : (s.modChan c f).OnePollPerLine := by
  intro a b ha hb same
  rw [State.modChan_chan] at ha hb
  rw [State.modChan_chan, State.modChan_chan] at same
  split at ha <;> split at hb
  · rename_i ca cb; exact ca.symm.trans cb
  · rename_i ca cb
    rw [if_pos ca, if_neg cb] at same
    exact absurd same.symm (alone ha b hb cb)
  · rename_i ca cb
    rw [if_neg ca, if_pos cb] at same
    exact absurd same (alone hb a ha ca)
  · rename_i ca cb
    rw [if_neg ca, if_neg cb] at same
    exact h a b ha hb same

theorem State.OnePollPerLine.clear {s : State} (h : ∀ c, (s.chan c).outstanding = false) : s.OnePollPerLine :=
  fun c _ hc => by cases (h c).symm.trans hc

theorem onePollPerLine_rows : KeptByRows State.OnePollPerLine :=
  .of_channels (fun _ _ e hs => hs.eased e)
    (fun s c eligible hs => hs.modChan fun _ d outstanding _ => by
      rw [(s.chan c).afterGrant_outstanding.2]
      exact State.eligible_alone eligible d outstanding)
    (fun _ c hs => hs.modChan fun outstanding d other apart same => apart (hs c d outstanding other same.symm))
    (fun _ _ _ idle _ hs => hs.modChan fun outstanding => by
      cases (Channel.idle_outstanding idle).symm.trans outstanding)
    (fun _ _ _ => .clear fun c => by rw [State.fullReset_chan]; rfl)
    (fun _ _ => .clear fun c => by rw [State.linesReset_chan]; rfl)

end Sys2Proof.Machine
end

section
/-! SUPPORT. The law of poll-issued records, kept by every step (O57): an account of each line's records, which names the outstanding channels; a record that its line's transmitter has given up stands aside on it until its errand ends. -/

namespace Sys2Proof.Machine

/-! ### The account of poll records -/

/-- The channels among some octets; 255 is the head end's, and no channel (R108). -/
def pollsOf (ks : List Octet) : Multiset Octet := ↑(ks.filter fun k => decide (k.toNat < 8))

@[simp] theorem pollsOf_nil : pollsOf [] = 0 := rfl

theorem pollsOf_append (ks js : List Octet) : pollsOf (ks ++ js) = pollsOf ks + pollsOf js :=
  congrArg _ (List.filter_append ks js)

theorem pollsOf_cons (k : Octet) (ks : List Octet) : pollsOf (k :: ks) = pollsOf [k] + pollsOf ks :=
  pollsOf_append [k] ks

theorem pollsOf_channel (c : ChannelNo) : pollsOf [natOctet c.val] = {natOctet c.val} := by revert c; decide

theorem pollsOf_headEnd {k : Octet} (h : 8 ≤ k.toNat) : pollsOf [k] = 0 := by
  simp [pollsOf, Nat.not_lt.mpr h]

theorem mem_pollsOf {k : Octet} {ks : List Octet} (h : k ∈ pollsOf ks) : k ∈ ks ∧ k.toNat < 8 := by
  simpa [pollsOf] using h

/-- The channels of a line's poll-issued records (R108, R120). -/
def Line.polls (l : Line) : Multiset Octet := ↑l.pollChannels

theorem Line.polls_eq (l : Line) : l.polls = pollsOf l.errands.queued + pollsOf l.errands.awaited.toList := by
  rw [← pollsOf_append]
  simp only [Line.polls, Line.pollChannels, pollsOf, Line.errands, Option.toList_map]

/-- The channels of each line's poll-issued records. -/
def State.polls (s : State) : LineNo → Multiset Octet := fun n => (s.line n).polls

/-- An account of poll records, line by line, names at most one of a line, and names a channel on a line exactly while
it is outstanding with that line as its target (R141, R145, R148). -/
structure State.Accounts (s : State) (held : LineNo → Multiset Octet) : Prop where
  one : ∀ n, (held n).card ≤ 1
  channels : ∀ n, ∀ k ∈ held n, k.toNat < 8
  named : ∀ n c, natOctet c.val ∈ held n ↔ (s.chan c).outstanding = true ∧ (s.chan c).settings.target = n

theorem natOctet_channel_inj {c d : ChannelNo} (h : natOctet c.val = natOctet d.val) : c = d := by
  revert c d; decide

theorem mem_add_single {held : LineNo → Multiset Octet} {m n : LineNo} {x : Multiset Octet} {k : Octet} :
    k ∈ (held + (Pi.single n x : LineNo → Multiset Octet)) m ↔ k ∈ held m ∨ (m = n ∧ k ∈ x) := by
  rw [Pi.add_apply, Multiset.mem_add]
  by_cases e : m = n
  · subst e; simp
  · simp [e]

/-- A channel's errand stays as it is: it stays outstanding on its line, or not outstanding. -/
structure Channel.SameErrand (c d : Channel) : Prop where
  outstanding : d.outstanding = c.outstanding
  target : c.outstanding = true → d.settings.target = c.settings.target

theorem Channel.SameErrand.of_standing {c d : Channel} (h : d.standing = c.standing) : c.SameErrand d where
  outstanding := (congrArg Channel.outstanding h :)
  target _ := (congrArg (fun k : Channel => k.settings.target) h :)

theorem State.modChan_sameErrand (s : State) (c : ChannelNo) {f : Channel → Channel}
    (h : (s.chan c).SameErrand (f (s.chan c))) (d : ChannelNo) : (s.chan d).SameErrand ((s.modChan c f).chan d) := by
  rw [State.modChan_chan]
  split
  · rename_i e; exact e ▸ h
  · exact .of_standing rfl

section
variable {s t : State} {held : LineNo → Multiset Octet}

/-- The account reads the channels' errands alone. -/
theorem State.Accounts.same (h : s.Accounts held) (channels : ∀ c, (s.chan c).SameErrand (t.chan c)) :
    t.Accounts held where
  one := h.one
  channels := h.channels
  named n c := by
    rw [(channels c).outstanding, h.named]
    exact and_congr_right fun outstanding => by rw [(channels c).target outstanding]

/-- A channel that an account names for one record it names for no other (R141). -/
theorem State.Accounts.alone {n : LineNo} {c : ChannelNo} (h : s.Accounts (held + Pi.single n {natOctet c.val}))
    (m : LineNo) : natOctet c.val ∉ held m := by
  intro again
  obtain ⟨-, aimed⟩ := (h.named m c).mp (mem_add_single.mpr (.inl again))
  obtain ⟨-, target⟩ := (h.named n c).mp (mem_add_single.mpr (.inr ⟨rfl, Multiset.mem_singleton_self _⟩))
  obtain rfl := aimed.symm.trans target
  have two := h.one m
  have first := Multiset.card_pos_iff_exists_mem.mpr ⟨_, again⟩
  rw [Pi.add_apply, Pi.single_eq_same, Multiset.card_add, Multiset.card_singleton] at two
  omega

/-- The end of a record's errand takes it off the account and its channel out of outstanding (R148). -/
theorem State.Accounts.pollEnd {n : LineNo} {k : Octet} (h : s.Accounts (held + Pi.single n (pollsOf [k])))
    (o : PollOutcome) : (s.pollEnd k o).Accounts held where
  one m := (Multiset.card_le_card (Multiset.le_add_right _ _)).trans (h.one m)
  channels m j hj := h.channels m j (mem_add_single.mpr (.inl hj))
  named m c := by
    rw [State.pollEnd_chan]
    split
    · rename_i here
      subst here
      rw [pollsOf_channel] at h
      obtain ⟨ended, -⟩ := (s.chan c).endRecord_ended o
      exact iff_of_false (h.alone m) fun outstanding => by cases ended.symm.trans outstanding.1
    · rename_i apart
      have absent : natOctet c.val ∉ pollsOf [k] := fun mem => apart (List.mem_singleton.mp (mem_pollsOf mem).1).symm
      rw [← h.named m c, mem_add_single]
      simp [absent]

/-- Without an outstanding channel a line's account is empty. -/
theorem State.Accounts.empty (h : s.Accounts held) {n : LineNo}
    (idle : ∀ d, (s.chan d).outstanding = true → (s.chan d).settings.target ≠ n) : held n = 0 :=
  Multiset.eq_zero_of_forall_notMem fun k mem => by
    have channel : natOctet (⟨k.toNat, h.channels n k mem⟩ : ChannelNo).val = k := natOctet_toNat k
    rw [← channel] at mem
    obtain ⟨outstanding, target⟩ := (h.named n _).mp mem
    exact idle _ outstanding target

/-- A grant puts its channel on the account of its target, which was empty (R141, R145). -/
theorem State.Accounts.grant (h : s.Accounts held) {c : ChannelNo} {n : LineNo}
    (target : (s.chan c).settings.target = n)
    (alone : ∀ d, (s.chan d).outstanding = true → (s.chan d).settings.target ≠ n) :
    (s.modChan c Channel.afterGrant).Accounts (held + Pi.single n {natOctet c.val}) := by
  have free := h.empty alone
  obtain ⟨granted, settings⟩ := (s.chan c).afterGrant_outstanding
  refine ⟨fun m => ?one, fun m k mem => ?channels, fun m d => ?named⟩
  case one =>
    by_cases e : m = n
    · subst e; simp [free]
    · simpa [e] using h.one m
  case channels =>
    rcases mem_add_single.mp mem with mem | ⟨-, mem⟩
    · exact h.channels m k mem
    · rw [Multiset.mem_singleton.mp mem, toNat_natOctet (by omega)]
      exact c.isLt
  case named =>
    rw [mem_add_single, Multiset.mem_singleton, State.modChan_chan, h.named]
    split
    · rename_i e
      subst e
      rw [granted, settings, target]
      have idle : (s.chan c).outstanding ≠ true := fun outstanding => alone c outstanding target
      simp [idle, eq_comm]
    · rename_i e
      have apart : natOctet d.val ≠ natOctet c.val := fun same => e (natOctet_channel_inj same).symm
      simp [apart]

end

/-! ### The law of poll records -/

/-- The law of poll records, while `aside` accounts for the records that a line's transmitter has given up and whose
errand has not ended (R108, R141, R145, R148). -/
structure State.PollsSound (aside : LineNo → Multiset Octet) (s : State) : Prop where
  account : s.Accounts (s.polls + aside)
  replies : ∀ n k, (s.line n).errands.answering = some k → (s.line n).errands.awaited = some k
  reading : ∀ r, s.parser.parse.record = some r → 8 ≤ r.channel.toNat

theorem State.pollRecordsSound_iff (s : State) : s.PollRecordsSound ↔ s.PollsSound 0 := by
  have replies : (∀ n k, (s.line n).errands.answering = some k → (s.line n).errands.awaited = some k) ↔
      ∀ n m, (s.line n).respMark = some m → ∃ w, (s.line n).wait = some w ∧ w.channel = m.channel := by
    simp [Line.errands]
  have reading : (∀ r, s.parser.parse.record = some r → 8 ≤ r.channel.toNat) ↔
      ∀ (r : DownRecord) (k : Nat), s.parser.parse = .payload r k → 8 ≤ r.channel.toNat := by
    cases s.parser.parse <;> simp [DownParse.record]
  have account : s.Accounts (s.polls + 0) ↔ (∀ n, (s.line n).pollChannels.length ≤ 1) ∧
      ∀ (n : LineNo) (c : ChannelNo), natOctet c.val ∈ (s.line n).pollChannels ↔
        (s.chan c).outstanding = true ∧ (s.chan c).settings.target = n := by
    rw [add_zero]
    refine ⟨fun h => ⟨h.one, h.named⟩, fun ⟨one, named⟩ => ⟨one, fun n k mem => ?_, named⟩⟩
    exact of_decide_eq_true (List.mem_filter.mp mem).2
  refine ⟨fun ⟨one, named, answers, headEnd⟩ =>
    ⟨account.mpr ⟨one, named⟩, replies.mpr answers, reading.mpr headEnd⟩, fun h => ?_⟩
  obtain ⟨one, named⟩ := account.mp h.account
  exact ⟨one, named, replies.mp h.replies, reading.mp h.reading⟩

section
variable {s t : State} {a : LineNo → Multiset Octet} {n : LineNo}

theorem State.PollsSound.of_eq (h : s.PollsSound a) (lines : ∀ n, (t.line n).errands = (s.line n).errands)
    (channels : ∀ c, (s.chan c).SameErrand (t.chan c))
    (reading : ∀ r, t.parser.parse.record = some r → 8 ≤ r.channel.toNat) : t.PollsSound a where
  account := by
    have polls : t.polls = s.polls := funext fun n => by simp only [State.polls, Line.polls_eq, lines]
    rw [polls]
    exact h.account.same channels
  replies n := by rw [lines]; exact h.replies n
  reading := reading

theorem State.PollsSound.same (e : s.SameErrands t) (h : s.PollsSound a) : t.PollsSound a :=
  h.of_eq e.lines (fun c => .of_standing (e.channels c)) (by rw [e.record]; exact h.reading)

/-- A line and what stands aside exchange records. -/
theorem State.PollsSound.modLine {f : Line → Line} {x y : Multiset Octet} (h : s.PollsSound (a + Pi.single n y))
    (balance : (f (s.line n)).polls + x = (s.line n).polls + y)
    (answers : ∀ k, (f (s.line n)).errands.answering = some k → (f (s.line n)).errands.awaited = some k) :
    (s.modLine n f).PollsSound (a + Pi.single n x) where
  account := by
    have same : (s.modLine n f).polls + (a + Pi.single n x) = s.polls + (a + Pi.single n y) := funext fun m => by
      simp only [State.polls, Pi.add_apply]
      by_cases e : m = n
      · subst e
        rw [State.modLine_line_self, Pi.single_eq_same, Pi.single_eq_same, add_left_comm, balance, add_left_comm]
      · rw [State.modLine_line_ne s f (Ne.symm e), Pi.single_eq_of_ne e, Pi.single_eq_of_ne e]
    rw [same]
    exact h.account.same fun _ => .of_standing rfl
  replies m := by
    rw [State.modLine_line]
    split
    · exact answers
    · exact h.replies m
  reading := h.reading

/-- A line gives records up. -/
theorem State.PollsSound.givesUp {f : Line → Line} {x : Multiset Octet} (h : s.PollsSound a)
    (balance : (f (s.line n)).polls + x = (s.line n).polls)
    (answers : ∀ k, (f (s.line n)).errands.answering = some k → (f (s.line n)).errands.awaited = some k) :
    (s.modLine n f).PollsSound (a + Pi.single n x) :=
  State.PollsSound.modLine (y := 0) (by simpa using h) (by simpa using balance) answers

/-- A line takes a record that stands aside. -/
theorem State.PollsSound.takes {f : Line → Line} {y : Multiset Octet} (h : s.PollsSound (a + Pi.single n y))
    (balance : (f (s.line n)).polls = (s.line n).polls + y)
    (answers : ∀ k, (f (s.line n)).errands.answering = some k → (f (s.line n)).errands.awaited = some k) :
    (s.modLine n f).PollsSound a := by
  have taken := h.modLine (x := 0) (by simpa using balance) answers
  simpa using taken

/-- The errand of a record that stands aside ends (R148). -/
theorem State.PollsSound.pollEnd {k : Octet} (h : s.PollsSound (a + Pi.single n (pollsOf [k]))) (o : PollOutcome) :
    (s.pollEnd k o).PollsSound a where
  account := by
    have polls : (s.pollEnd k o).polls = s.polls := funext fun m => congrArg Line.polls (State.pollEnd_line s k o m)
    rw [polls]
    exact State.Accounts.pollEnd (by rw [add_assoc]; exact h.account) o
  replies m := by rw [State.pollEnd_line]; exact h.replies m
  reading := by rw [(State.Beside.pollEnd s k o).parser]; exact h.reading

/-- The errands of several records that stand aside end. -/
theorem State.PollsSound.pollEnds (gone : List DownRecord)
    (h : s.PollsSound (a + Pi.single n (pollsOf (gone.map fun r => r.channel)))) (o : PollOutcome) :
    (s.pollEnds o gone).PollsSound a := by
  induction gone generalizing s with
  | nil => simpa [State.pollEnds] using h
  | cons r rs ih =>
    rw [List.map_cons, pollsOf_cons, add_comm (pollsOf [r.channel]), Pi.single_add, ← add_assoc] at h
    exact ih (h.pollEnd o)

/-! ### Line work -/

/-- The response that ends is the reply of the line's wait, whose errand ends with it (R67, R121). -/
theorem State.PollsSound.endResponse (n : LineNo) (h : s.PollsSound a) : (s.endResponse n).PollsSound a := by
  cases mark : (s.line n).respMark with
  | none => rwa [State.endResponse_none mark]
  | some m =>
    have awaited : (s.line n).errands.awaited = some m.channel := h.replies n m.channel (by simp [Line.errands, mark])
    rw [State.endResponse_some mark]
    refine State.PollsSound.pollEnd (n := n) (h.givesUp ?_ ?_) .answered
    · rw [Line.polls_eq, Line.polls_eq, Line.settleDrain_errands, awaited]
      simp [Line.errands]
    · rw [Line.settleDrain_errands]
      exact nofun

theorem State.PollsSound.work (a : LineNo → Multiset Octet) : KeptByWork (State.PollsSound a) :=
  .of_errands (fun e h => h.same e) (fun _ n h => h.endResponse n) fun s n st m d k h => by
    rcases (s.line n).openNew_duties st m d k with same | ⟨w, waits, begins⟩
    · exact h.same (.modLine s n (Line.errands_of_duties same))
    · have errands := Line.errands_of_duties begins
      have opened := h.givesUp (n := n) (x := 0) (f := Line.openNew st m d k)
        (by rw [Line.polls_eq, Line.polls_eq, errands]; simp [Line.errands, waits])
        (by rw [errands]; simp [Line.errands])
      simpa using opened

end

/-! ### Rows -/

/-- The laws of the transmitters and of poll records together. -/
def State.PollsKept (s : State) : Prop := s.EachLine Line.TransmitterSound ∧ s.PollsSound 0

theorem KeptByWork.and {P Q : State → Prop} (h : KeptByWork P) (k : KeptByWork Q) : KeptByWork fun s => P s ∧ Q s where
  same e hs := ⟨h.same e hs.1, k.same e hs.2⟩
  close s n c hs := ⟨h.close s n c hs.1, k.close s n c hs.2⟩
  clear s n hs := ⟨h.clear s n hs.1, k.clear s n hs.2⟩
  opens s n st m t awake closed hs ht :=
    ⟨h.opens s n st m t awake closed hs.1 ht, k.opens s n st m t awake closed hs.2 ht⟩
  grow s n r t opened hs ht := ⟨h.grow s n r t opened hs.1 ht, k.grow s n r t opened hs.2 ht⟩
  append s n e hs := ⟨h.append s n e hs.1, k.append s n e hs.2⟩
  select s n j found hs := ⟨h.select s n j found hs.1, k.select s n j found hs.2⟩
  starve s n hs := ⟨h.starve s n hs.1, k.starve s n hs.2⟩
  rouse s n hs := ⟨h.rouse s n hs.1, k.rouse s n hs.2⟩
  begins s n queue may hs := ⟨h.begins s n queue may hs.1, k.begins s n queue may hs.2⟩
  stopGap s n closed unmarked hs := ⟨h.stopGap s n closed unmarked hs.1, k.stopGap s n closed unmarked hs.2⟩

section
variable {s : State} {n : LineNo}

/-- The end of a record: it stands aside during the wake pass, and then its wait begins or its errand ends (R119, R120,
R148). -/
theorem State.PollsSound.recordEnd {r : DownRecord} {rest : List DownRecord} (sound : s.EachLine Line.TransmitterSound)
    (sends : (s.line n).sending = true) (queue : (s.line n).downQueue = r :: rest) (h : s.PollsSound 0) :
    (s.recordEnd n r rest).PollsSound 0 := by
  have ended := (sound n).elementEnded_rests sends rest
  rw [← State.modLine_line_self s n (Line.elementEnded rest)] at ended
  have rests : (((s.modLine n (Line.elementEnded rest)).release r.chain r.desc).line n).Rests :=
    Line.Rests.keptByAssembly.wakePass (fun _ h => h.resting) ended
  have aside : ((s.modLine n (Line.elementEnded rest)).release r.chain r.desc).PollsSound
      (0 + Pi.single n (pollsOf [r.channel])) := by
    refine (State.PollsSound.work _).release (State.PollsSound.same (s := s.modLine n (Line.elementEnded rest)) {}
      (h.givesUp ?_ (h.replies n)))
    rw [Line.polls_eq, Line.polls_eq]
    simp only [Line.errands, Line.elementEnded, queue, List.map_cons]
    rw [pollsOf_cons r.channel (rest.map _)]
    abel
  unfold State.recordEnd
  dsimp only
  split
  · refine aside.takes ?_ ?_
    · rw [Line.polls_eq, Line.polls_eq]
      simp [Line.errands, rests.unawaited, DownRecord.replyWait]
    · simp [Line.errands, rests.calm]
  · exact (aside.same (.modLine _ n (Line.settleDrain_errands _))).pollEnd .sent

/-- The flush: the discarded records stand aside during the wake pass, and then their errands end (R126, R148). -/
theorem State.PollsSound.flush (n : LineNo) (h : s.PollsSound 0) : (s.flush n).PollsSound 0 := by
  by_cases gone : (s.line n).flushed = []
  · rwa [State.flush_nothing gone]
  · have cut : (s.modLine n fun l => { l with downQueue := l.flushKept }).PollsSound
        (0 + Pi.single n (pollsOf ((s.line n).flushed.map fun r => r.channel))) := by
      refine h.givesUp ?_ (h.replies n)
      rw [Line.polls_eq, Line.polls_eq]
      simp only [Line.errands]
      rw [← (s.line n).flushKept_append_flushed, List.map_append, pollsOf_append]
      abel
    have woken := (State.PollsSound.work _).wakePass (cut.same (t := s.flushReturned n) {})
    rw [State.flush_some gone]
    exact (woken.pollEnds _ .abandoned).same (.modLine _ n (Line.settleDrain_errands _))

/-- The expiry of a wait that has not begun (R122). -/
theorem State.PollsSound.expired {w : ReplyWait} (sound : s.EachLine Line.TransmitterSound)
    (waits : (s.line n).wait = some w) (fresh : w.begun = false) (h : s.PollsSound 0) :
    ((s.modLine n (Line.waitExpired w)).pollEnd w.channel .noReply).PollsSound 0 := by
  have calm : (s.line n).respMark = none := Option.eq_none_iff_forall_ne_some.mpr fun m mark => by
    obtain ⟨v, awaited, begun⟩ := (sound n).replies m mark
    cases waits.symm.trans awaited
    cases fresh.symm.trans begun
  refine State.PollsSound.pollEnd (n := n) (h.givesUp ?_ ?_) .noReply
  · rw [Line.polls_eq, Line.polls_eq, Line.waitExpired, Line.settleDrain_errands]
    simp [Line.errands, waits]
  · rw [Line.waitExpired, Line.settleDrain_errands]
    simp [Line.errands, calm]

/-- The record of a grant joins the queue of its channel's target (R145). -/
theorem State.PollsSound.granted {c : ChannelNo} {e : Script} {st : Station} (eligible : s.eligible c = true)
    (station : s.grantStation c e = some st) (d k : Nat) (h : s.PollsSound 0) :
    ((s.modLine st.line fun l => { l with downQueue := l.downQueue ++ [pollRecord c e st d k] }).modChan c
      Channel.afterGrant).PollsSound 0 := by
  have target := (State.grantStation_line station).symm
  have granted : (s.modChan c Channel.afterGrant).PollsSound (0 + Pi.single st.line {natOctet c.val}) :=
    ⟨by
      rw [← add_assoc]
      exact h.account.grant target (target ▸ State.eligible_alone eligible), h.replies, h.reading⟩
  refine granted.takes (f := fun l => { l with downQueue := l.downQueue ++ [pollRecord c e st d k] }) ?_ (h.replies _)
  rw [Line.polls_eq, Line.polls_eq, ← pollsOf_channel]
  simp only [Line.errands, List.map_append, List.map_cons, List.map_nil, pollsOf_append, pollRecord]
  abel

/-- A record of the head end joins the queue of its line (R112). -/
theorem State.PollsSound.queued {r : DownRecord} (headEnd : 8 ≤ r.channel.toNat) (h : s.PollsSound 0) :
    (s.modLine n fun l => { l with downQueue := l.downQueue ++ [r] }).PollsSound 0 := by
  have joined := h.givesUp (n := n) (x := 0) (f := fun l => { l with downQueue := l.downQueue ++ [r] })
    (by
      rw [Line.polls_eq, Line.polls_eq]
      simp [Line.errands, pollsOf_append, pollsOf_headEnd headEnd])
    (h.replies n)
  simpa using joined

/-- With no errand and no channel outstanding the law holds. -/
theorem State.PollsSound.clear (lines : ∀ n, (s.line n).errands = ⟨[], none, none⟩)
    (channels : ∀ c, (s.chan c).outstanding = false) (record : s.parser.parse.record = none) : s.PollsSound 0 where
  account := by
    have polls : s.polls + 0 = 0 := funext fun n => by simp [State.polls, Line.polls_eq, lines]
    rw [polls]
    exact ⟨fun _ => Nat.zero_le 1, fun _ _ mem => absurd mem (Multiset.notMem_zero _),
      fun n c => iff_of_false (Multiset.notMem_zero _) (by simp [channels])⟩
  replies n k answering := by rw [lines] at answering; cases answering
  reading r reading := by rw [record] at reading; cases reading

end

/-- A LINES-scope reset leaves the Downstream Parser no record (R114). -/
theorem State.linesReset_record (s : State) : s.linesReset.parser.parse.record = none := by
  show (s.mapLines Line.linesReset).linesResetParser.parser.parse.record = none
  unfold State.linesResetParser
  split
  · rename_i reading; rw [reading]; rfl
  · rename_i reading; rw [reading]; rfl
  · rename_i reading; rw [reading]; rfl
  · rfl
  · rfl
  · exact afterSkip_record _

theorem pollsKept_rows : KeptByRows State.PollsKept := by
  have rows := transmittersSound_rows
  have work := State.PollsSound.work 0
  exact {
    toKeptByWork := rows.toKeptByWork.and work
    claim := fun s r d b free taken desc chain channel ⟨sound, h⟩ =>
      ⟨rows.claim s r d b free taken desc chain channel sound,
        h.of_eq (fun _ => rfl) (fun _ => .of_standing rfl) fun q hq => by cases hq; rw [channel]; decide⟩
    grown := fun s r k i b reading taken ⟨sound, h⟩ =>
      ⟨rows.grown s r k i b reading taken sound,
        h.of_eq (fun _ => rfl) (fun _ => .of_standing rfl) fun q hq => by
          cases hq; exact h.reading r (by rw [reading]; rfl)⟩
    stored := fun s r k o reading ⟨sound, h⟩ => ⟨rows.stored s r k o reading sound, h.same {}⟩
    dropped := fun s r k p reading hp ⟨sound, h⟩ =>
      ⟨rows.dropped s r k p reading hp sound,
        h.of_eq (fun _ => rfl) (fun _ => .of_standing rfl) fun q hq => by cases hp.symm.trans hq⟩
    queued := fun s r k reading accepts room ⟨sound, h⟩ =>
      ⟨rows.queued s r k reading accepts room sound,
        State.PollsSound.queued (s := s.setParse .between) (h.reading r (by rw [reading]; rfl))
          (h.of_eq (fun _ => rfl) (fun _ => .of_standing rfl) nofun)⟩
    sent := fun s n r rest queue ⟨sound, h⟩ => ⟨rows.sent s n r rest queue sound,
        (h.same (.modLine s n (f := fun l => { l with upQueue := rest }))).same {}⟩
    recordEnd := fun s n r rest sends queue ⟨sound, h⟩ =>
      ⟨rows.recordEnd s n r rest sends queue sound, h.recordEnd sound sends queue⟩
    noReply := fun s n w d b taken ⟨sound, h⟩ =>
      ⟨rows.noReply s n w d b taken sound, (h.same {}).same (.modLine { s with buffer := b } n)⟩
    expired := fun s n w waits fresh ⟨sound, h⟩ =>
      ⟨rows.expired s n w waits fresh sound, h.expired sound waits fresh⟩
    transmitterOn := fun s n ⟨sound, h⟩ => ⟨rows.transmitterOn s n sound, h.same (.modLine s n)⟩
    transmitterOff := fun s n ⟨sound, h⟩ => ⟨rows.transmitterOff s n sound, h.same (.modLine s n (by
      split
      · exact Line.settleDrain_errands _
      · rfl
      · rfl))⟩
    flush := fun s n ⟨sound, h⟩ => ⟨rows.flush s n sound, h.flush n⟩
    granted := fun s c e st d k b eligible station taken ⟨sound, h⟩ =>
      ⟨rows.granted s c e st d k b eligible station taken sound,
        (h.granted eligible station d k).same {}⟩
    mask := fun s c ⟨sound, h⟩ => ⟨rows.mask s c sound,
      h.of_eq (fun _ => rfl) (s.modChan_sameErrand c ⟨rfl, fun _ => rfl⟩) h.reading⟩
    maskAll := fun s ⟨sound, h⟩ => ⟨rows.maskAll s sound,
      h.of_eq (fun _ => rfl) (fun c => by rw [State.mapChans_chan]; exact ⟨rfl, fun _ => rfl⟩) h.reading⟩
    arm := fun s c ⟨sound, h⟩ => ⟨rows.arm s c sound,
      h.of_eq (fun _ => rfl) (s.modChan_sameErrand c ⟨rfl, fun _ => rfl⟩) h.reading⟩
    configure := fun s c p idle lawful ⟨sound, h⟩ => ⟨rows.configure s c p idle lawful sound,
      h.of_eq (fun _ => rfl) (s.modChan_sameErrand c ⟨rfl, fun outstanding => by
        cases (Channel.idle_outstanding idle).symm.trans outstanding⟩) h.reading⟩
    setStation := fun s k e free clear ⟨sound, h⟩ => ⟨rows.setStation s k e free clear sound, h.same {}⟩
    fullReset := fun s c ⟨sound, _⟩ => ⟨rows.fullReset s c sound,
      .clear (fun n => congrArg Line.errands (reset_line n)) (fun k => congrArg Channel.outstanding (reset_chan k)) rfl⟩
    linesReset := fun s ⟨sound, _⟩ => ⟨rows.linesReset s sound,
      .clear (fun n => by rw [State.linesReset_line]; rfl) (fun c => by rw [State.linesReset_chan]; rfl)
        s.linesReset_record⟩ }

/-- Settles O57, by `KeptByRows.step`: the counts and the one outstanding channel of a line are laws of the channels
(`KeptByRows.of_channels`), and the poll-issued records are an account of the lines' errands (`State.PollsSound`). -/
theorem stepKeepsTheChannelLaws : Obligations.StepKeepsTheChannelLaws := by
  refine ⟨fun s t hs ht => ?_, fun _ _ => onePollPerLine_rows.step, fun s t sound hs ht => ?_⟩
  · exact t.countsLawful_iff.mpr (countsLawful_rows.step (s.countsLawful_iff.mp hs) ht)
  · obtain ⟨-, kept⟩ :=
      pollsKept_rows.step ⟨s.transmittersSound_iff.mp sound, s.pollRecordsSound_iff.mp hs⟩ ht
    exact t.pollRecordsSound_iff.mpr kept

end Sys2Proof.Machine
end

section
/-! SUPPORT. The Poll Engine: the interval's trigger and the end of an outstanding record (O36), the arbiter's choice (O37), and the grant (O38). -/

namespace Sys2Proof.Machine

/-! ### Triggers and outcomes -/

/-- An interval counter that runs out is loaded again, and its trigger is missed or taken (R136, R137). -/
theorem Channel.intervalExpires_eq (ch : Channel) :
    ch.intervalExpires =
      if ch.pending = true ∨ (ch.outstanding = true ∧ ch.settings.mode = .run) then
        { ch with counter := some (10 * ch.settings.interval), missed := satInc ch.missed }
      else { ch with counter := some (10 * ch.settings.interval), pending := true } := by
  simp only [Channel.intervalExpires, Channel.trigger, Bool.or_eq_true, Bool.and_eq_true, beq_iff_eq]

/-- A channel at the end of its outstanding record (R148, R149). -/
theorem Channel.endRecord_eq (o : PollOutcome) (ch : Channel) :
    ch.endRecord o =
      if ch.runInProgress = true ∧ ch.armed = true then
        { ch with outstanding := false, outcome := o, pending := true, runInProgress := false }
      else { ch with outstanding := false, outcome := o } := by
  simp only [Channel.endRecord, Bool.and_eq_true]

/-- A record of no channel tells none of its end (R108). -/
theorem State.pollEnd_no_channel (s : State) {channel : Octet} (o : PollOutcome) (h : 8 ≤ channel.toNat) :
    s.pollEnd channel o = s := dif_neg (Nat.not_lt.mpr h)

theorem State.pollEnd_natOctet (s : State) (c : ChannelNo) (o : PollOutcome) :
    s.pollEnd (natOctet c.val) o = s.modChan c (Channel.endRecord o) := by
  have number : (natOctet c.val).toNat = c.val := toNat_natOctet (by omega)
  simp only [State.pollEnd, number, c.isLt, dif_pos]

/-- Settles O36: the trigger is `Channel.intervalExpires_eq`, and the end of a record `Channel.endRecord_eq`. -/
theorem triggersAndOutcomes : Obligations.TriggersAndOutcomes := by
  refine ⟨fun s c => ?expiry, fun s channel o => ⟨s.pollEnd_no_channel o, ?told⟩⟩
  case expiry =>
    rw [← funext Channel.intervalExpires_eq]
    rfl
  case told =>
    rintro c rfl
    rw [State.pollEnd_natOctet, funext (Channel.endRecord_eq o)]

/-! ### The arbiter -/

/-- The five conditions of eligibility (R141). -/
theorem State.eligible_iff (s : State) (c : ChannelNo) :
    s.eligible c = true ↔
      (s.chan c).pending = true ∧ (s.line (s.chan c).settings.target).txMode = .on ∧
        (s.line (s.chan c).settings.target).quietHold = false ∧
        (s.line (s.chan c).settings.target).downQueue.length < 16 ∧
        (∀ d : ChannelNo, (s.chan d).outstanding = true → (s.chan d).settings.target ≠ (s.chan c).settings.target) ∧
        s.buffer.freeDescs ≠ [] ∧ s.buffer.freeBlocks ≠ [] := by
  have alone (n : LineNo) :
      s.lineHasPoll n = false ↔ ∀ d, (s.chan d).outstanding = true → (s.chan d).settings.target ≠ n := by
    simp [State.lineHasPoll, List.any_eq_false, mem_allChannels]
  simp only [State.eligible, ← alone, Bool.and_eq_true, beq_iff_eq, Bool.not_eq_true', decide_eq_true_eq,
    List.isEmpty_eq_false_iff, and_assoc]
  rfl

/-- The first channel, in the order 0 to 7, that answers a test. -/
theorem find?_allChannels_iff {p : ChannelNo → Bool} {c : ChannelNo} :
    allChannels.find? p = some c ↔ p c = true ∧ ∀ d < c, p d = false := by
  have numbers : allChannels = List.finRange 8 := by decide
  rw [numbers, ← Fin.find?_eq_find?_finRange, Fin.find?_eq_some_iff]

/-- The rotation is the order 0 to 7, begun after its pointer. -/
theorem rotation_eq_map (p : ChannelNo) : rotation p = allChannels.map fun i => p + 1 + i := by
  revert p; decide

/-- The first channel in rotation that answers a test: no channel less far behind the pointer answers it. -/
theorem find?_rotation_iff {p : ChannelNo} {q : ChannelNo → Bool} {c : ChannelNo} :
    (rotation p).find? q = some c ↔ q c = true ∧ ∀ d, d - p - 1 < c - p - 1 → q d = false := by
  have away (i : ChannelNo) : p + 1 + i - p - 1 = i := by abel
  have back (d : ChannelNo) : p + 1 + (d - p - 1) = d := by abel
  rw [rotation_eq_map, List.find?_map, Option.map_eq_some_iff]
  constructor
  · rintro ⟨i, found, rfl⟩
    obtain ⟨here, before⟩ := find?_allChannels_iff.mp found
    refine ⟨here, fun d nearer => ?_⟩
    rw [away] at nearer
    exact back d ▸ before _ nearer
  · rintro ⟨here, before⟩
    refine ⟨c - p - 1, find?_allChannels_iff.mpr ⟨?_, fun i nearer => ?_⟩, back c⟩
    · rw [Function.comp_apply, back]
      exact here
    · exact before _ ((away i).symm ▸ nearer)

/-- Settles O37: the choice is the first eligible channel of the mode's order. -/
theorem arbiterChoosesAnEligibleChannel : Obligations.ArbiterChoosesAnEligibleChannel := by
  intro s
  refine ⟨s.eligible_iff, fun noneEligible => ?_, fun fixed c => ?_, fun rotating c => ?_⟩
  · have choice : s.choice = none := List.find?_eq_none.mpr fun c _ => Bool.eq_false_iff.mp (noneEligible c)
    have row : exec .pollGrant s = execPollGrant s := rfl
    simp only [row, execPollGrant, choice]
  · rw [State.choice, Poll.order, fixed]
    exact find?_allChannels_iff
  · rw [State.choice, Poll.order, rotating]
    exact find?_rotation_iff

/-! ### The grant -/

/-- A grant is of the arbiter's choice (R142). -/
theorem exec_pollGrant {s : State} {c : ChannelNo} (choice : s.choice = some c) :
    exec .pollGrant s = .next (s.grant c) := by
  have row : exec .pollGrant s = execPollGrant s := rfl
  simp only [row, execPollGrant, choice]

/-- The rotation pointer is set to a channel (R142). -/
def State.pointTo (s : State) (c : ChannelNo) : State := { s with poll := { s.poll with pointer := c } }

/-- A grant whose station check fails is a script fault (R146). -/
theorem State.grant_fault {s : State} {c : ChannelNo}
    (check : s.grantStation c s.poll.script[(s.chan c).current] = none) :
    s.grant c = (s.pointTo c).scriptFault c := by
  unfold State.grant
  dsimp only
  split
  · rfl
  · rename_i found
    cases check.symm.trans found

/-- A grant whose station check passes makes a poll record (R145). -/
theorem State.grant_record {s : State} {c : ChannelNo} {st : Station}
    (check : s.grantStation c s.poll.script[(s.chan c).current] = some st) :
    s.grant c = (s.pointTo c).makePollRecord c s.poll.script[(s.chan c).current] st := by
  unfold State.grant
  dsimp only
  split
  · rename_i found
    cases check.symm.trans found
  · rename_i found
    cases check.symm.trans found
    rfl

/-- A poll record with its payload stored joins its line's queue (R145, step 4). -/
def State.queuePoll (s : State) (r : DownRecord) (b : Buffer) (payload : List Octet) : State :=
  { s with buffer := b.storeAll r.chain 0 payload }.modLine r.line fun l => { l with downQueue := l.downQueue ++ [r] }

/-- The making of a poll record takes the first free descriptor and the first free block (R76, R145, R147). -/
theorem State.makePollRecord_taken {s : State} {d k : Nat} {ds ks : List Nat} (c : ChannelNo) (e : Script)
    (st : Station) (descs : s.buffer.freeDescs = d :: ds) (blocks : s.buffer.freeBlocks = k :: ks) :
    s.makePollRecord c e st =
      let queued := s.queuePoll (pollRecord c e st d k) { s.buffer with freeDescs := ds, freeBlocks := ks } e.payload
      let raised := if (s.chan c).count - 1 = 0 then queued.raise (.pollTerminal c) else queued
      (raised.modChan c fun _ => (s.chan c).afterGrant).tryBegin st.line := by
  have taken : s.buffer.takeBoth = some (d, k, { s.buffer with freeDescs := ds, freeBlocks := ks }) := by
    simp only [Buffer.takeBoth, descs, blocks]
  simp only [State.makePollRecord, taken]
  refine congrArg (State.tryBegin · st.line) (State.modChan_congr _ c (congrArg Channel.afterGrant ?_))
  split <;> rfl

/-- Settles O38, by the station check. -/
theorem grantMakesARecordOrFaults : Obligations.GrantMakesARecordOrFaults := by
  refine ⟨fun s c d k ds ks choice descs blocks => ?record, fun s c choice => ?fault⟩
  case record =>
    intro ch e st valid down line r moved after queued raised
    have check : s.grantStation c e = some st := by
      rw [State.grantStation_eq]
      exact if_pos ⟨valid, down, line⟩
    rw [exec_pollGrant choice, State.grant_record check,
      State.makePollRecord_taken (s := s.pointTo c) c e st descs blocks]
    rfl
  case fault =>
    intro e st fails
    have check : s.grantStation c e = none := by
      rw [State.grantStation_eq]
      refine if_neg ?_
      rintro ⟨valid, down, line⟩
      rcases fails with h | h | h
      · exact Bool.eq_false_iff.mp h valid
      · exact Bool.eq_false_iff.mp h down
      · exact h line
    rw [exec_pollGrant choice, State.grant_fault check]
    rfl

end Sys2Proof.Machine
end

section
/-! SUPPORT. The commands of the poll channels and of the Script Store: Set Channel and Read Channel (O39), Poll Control (O40), Write Script, Read Script and Set Arbitration (O41), by their judgements. -/

namespace Sys2Proof.Machine

@[simp] theorem State.dequeued_chan (s : State) (rest : List Command) : (s.dequeued rest).chan = s.chan := rfl

/-! ### Set Channel and Read Channel -/

theorem Channel.inUse_iff (ch : Channel) :
    ch.inUse = true ↔ ch.armed = true ∨ ch.outstanding = true ∨ ch.pending = true := by
  simp only [Channel.inUse, Bool.or_eq_true, or_assoc]

/-- Set Channel with lawful settings, by whether the channel is in use (R134). -/
theorem judgeSetChannel_plain (tag : Octet) (k : ChannelNo) {p : ChannelSettings} (lawful : p.Lawful) (s : State) :
    judgeSetChannel (.plain 0x50 tag (natOctet k.val :: p.octets)) s =
      if (s.chan k).inUse then refuse s .busy else accept (s.modChan k (Channel.configure p)) [] := by
  simp only [judgeSetChannel, Command.plain, ChannelSettings.octets, halfOctets, List.cons_append, List.nil_append,
    finOf_natOctet k (by decide : 8 ≤ 256), ChannelSettings.ofOctets_octets p lawful]

theorem judgeReadChannel_plain (tag : Octet) (k : ChannelNo) (s : State) :
    judgeReadChannel (.plain 0x51 tag [natOctet k.val]) s = accept s (s.chan k).octets := by
  simp only [judgeReadChannel, Command.plain, finOf_natOctet k (by decide : 8 ≤ 256)]

/-- Settles O39: Set Channel by `judgeSetChannel_plain`, and Read Channel by the channel's octets. -/
theorem setChannelAndReadChannel : Obligations.SetChannelAndReadChannel := by
  intro s rest tag k p lawful
  refine ⟨fun c hc due => ?set, fun c hc due => ?read⟩
  case set =>
    subst hc
    have judged := judgeSetChannel_plain tag k lawful (s.dequeued rest)
    rw [State.dequeued_chan] at judged
    refine ⟨fun masked settled quiet => ?_, fun busy => ?_⟩
    · have idle : ¬(s.chan k).inUse = true := by
        simp only [Channel.inUse_iff, masked, settled, quiet, Bool.false_eq_true, or_self, not_false_iff]
      exact congrArg Host.Outcome.next
        (State.execute_accepted due (hasCode_plain ..) (judged.trans (if_neg idle)))
    · exact congrArg Host.Outcome.next
        (State.execute_refused due (hasCode_plain ..) (judged.trans (if_pos ((Channel.inUse_iff _).mpr busy))))
  case read =>
    subst hc
    exact congrArg Host.Outcome.next
      (State.execute_accepted due (hasCode_plain ..) (judgeReadChannel_plain tag k (s.dequeued rest)))

/-! ### Poll Control -/

theorem PollAction.ofOctet_eq_none {o : Octet} (h : 2 < o.toNat) : PollAction.ofOctet o = none := by
  unfold PollAction.ofOctet
  rw [if_neg (by rintro rfl; simp at h), if_neg (by rintro rfl; simp at h), if_neg (by rintro rfl; simp at h)]

section
variable {a : PollAction} {o : Octet}

/-- A Poll Control of an action is named by the action's row (R138). -/
theorem pollNames_action (tag : Octet) (k : ChannelNo) (action : PollAction.ofOctet o = some a) :
    pollNames a (.plain 0x52 tag [natOctet k.val, o]) = true := by
  simp [pollNames, Command.plain, hasCode, finOf_natOctet, action]

/-- A Poll Control whose channel or action is out of range is named by each row of Poll Control (log 2). -/
theorem pollNames_range (a : PollAction) (tag : Octet) {channel : Octet} (h : 7 < channel.toNat ∨ 2 < o.toNat) :
    pollNames a (.plain 0x52 tag [channel, o]) = true := by
  rw [pollNames, hasCode_plain, Bool.true_and]
  simp only [Command.plain]
  split
  · rename_i inRange known
    rcases h with h | h
    · rw [finOf_eq_none h] at inRange; cases inRange
    · rw [PollAction.ofOctet_eq_none h] at known; cases known
  · rfl

variable {effect : ChannelNo → State → Judged}

theorem judgePollControl_action (tag : Octet) (k : ChannelNo) (action : PollAction.ofOctet o = some a) (s : State) :
    judgePollControl a effect (.plain 0x52 tag [natOctet k.val, o]) s = effect k s := by
  simp only [judgePollControl, Command.plain, finOf_natOctet k (by decide : 8 ≤ 256), action, if_true]

theorem judgePollControl_range (tag : Octet) {channel : Octet} (h : 7 < channel.toNat ∨ 2 < o.toNat) (s : State) :
    judgePollControl a effect (.plain 0x52 tag [channel, o]) s = refuse s .range := by
  simp only [judgePollControl, Command.plain]
  split
  · rfl
  · rename_i inRange
    rcases h with h | h
    · rw [finOf_eq_none h] at inRange; cases inRange
    · rw [PollAction.ofOctet_eq_none h, if_neg nofun]

/-- A due Poll Control of an action whose effect is accepted (R138, R139, R140). -/
theorem State.execute_pollControl {s t : State} {rest : List Command} {tag : Octet} {k : ChannelNo}
    (action : PollAction.ofOctet o = some a) (due : s.Due (.plain 0x52 tag [natOctet k.val, o]) rest)
    (effective : effect k (s.dequeued rest) = accept t []) :
    s.execute (pollNames a) (judgePollControl a effect) =
      t.replied ((Command.plain 0x52 tag [natOctet k.val, o]).answer .ok []) :=
  State.execute_accepted due (pollNames_action tag k action)
    ((judgePollControl_action tag k action _).trans effective)

/-- A due Poll Control whose channel or action is out of range, under any row of Poll Control (log 2). -/
theorem State.execute_pollControl_range {s : State} {rest : List Command} {tag channel : Octet}
    (due : s.Due (.plain 0x52 tag [channel, o]) rest) (h : 7 < channel.toNat ∨ 2 < o.toNat) :
    s.execute (pollNames a) (judgePollControl a effect) =
      s.answered rest ((Command.plain 0x52 tag [channel, o]).answer .range []) :=
  State.execute_refused due (pollNames_range a tag h) (judgePollControl_range tag h _)

end

/-- What makes POLL_NOW BUSY (R140). -/
theorem Channel.pollNowBusy_iff (ch : Channel) :
    ch.pollNowBusy = true ↔
      ch.pending = true ∨ (ch.armed = true ∧ ch.settings.mode = .run ∧ ch.outstanding = true) ∨
        (ch.armed = false ∧ ch.count = 0) := by
  simp [Channel.pollNowBusy, and_assoc, or_assoc]

/-- A channel as POLL_NOW leaves it: the request of a MASKED channel is a one-shot (R140). -/
theorem Channel.pollNow_eq (ch : Channel) :
    ch.pollNow = { ch with pending := true, oneShot := if ch.armed = true then ch.oneShot else true } := by
  unfold Channel.pollNow
  split <;> rfl

/-- Settles O40: each action by its effect on the channel. -/
theorem pollControlActions : Obligations.PollControlActions := by
  intro s rest tag k
  refine ⟨?arm, ?mask, ?now, ?range⟩
  case arm =>
    rintro c rfl due
    exact congrArg Host.Outcome.next (State.execute_pollControl (a := .arm) rfl due rfl)
  case mask =>
    rintro c rfl due
    exact congrArg Host.Outcome.next (State.execute_pollControl (a := .mask) rfl due rfl)
  case now =>
    rintro c rfl due
    refine congrArg Host.Outcome.next ?_
    split
    · rename_i busy
      exact State.execute_refused due (pollNames_action tag k rfl)
        ((judgePollControl_action tag k rfl _).trans (if_pos ((Channel.pollNowBusy_iff _).mpr busy)))
    · rename_i free
      rw [← funext Channel.pollNow_eq]
      exact State.execute_pollControl rfl due (if_neg fun busy => free ((Channel.pollNowBusy_iff _).mp busy))
  case range =>
    rintro c channel action rfl due out
    have refused (a : PollAction) (effect : ChannelNo → State → Judged) :
        (.next (s.execute (pollNames a) (judgePollControl a effect)) : Host.Outcome State Fault Refusal) =
          .next (s.answered rest ((Command.plain 0x52 tag [channel, action]).answer .range [])) :=
      congrArg Host.Outcome.next (State.execute_pollControl_range due out)
    exact ⟨refused .arm _, refused .mask _, refused .pollNow _⟩

/-! ### The Script Store and the arbiter's mode -/

/-- Write Script of an entry of 1 to 16 payload octets replaces it (R131). -/
theorem judgeWriteScript_entry (tag : Octet) (k : EntryNo) {e : Script} (least : 1 ≤ e.payload.length)
    (most : e.payload.length ≤ 16) (s : State) :
    judgeWriteScript (.plain 0x40 tag (natOctet k.val :: e.octets)) s =
      accept { s with poll := { s.poll with script := s.poll.script.set k e } } [] := by
  simp only [judgeWriteScript, Command.plain, Script.octets, List.cons_append, List.nil_append,
    toNat_natOctet (show e.payload.length ≤ 255 by omega), finOf_natOctet k (by decide : 64 ≤ 256), boolOf_boolOctet,
    natOf_natOctet least most (by decide), if_true]

/-- Write Script of an entry with no payload octet, or with more than 16, is refused RANGE (R131). -/
theorem judgeWriteScript_entry_range (tag : Octet) (k : EntryNo) {e : Script}
    (h : e.payload = [] ∨ (16 < e.payload.length ∧ e.payload.length ≤ 36)) (s : State) :
    judgeWriteScript (.plain 0x40 tag (natOctet k.val :: e.octets)) s = refuse s .range := by
  have short : e.payload.length ≤ 255 := by
    rcases h with h | ⟨-, h⟩
    · simp only [h, List.length_nil, Nat.zero_le]
    · omega
  have number := toNat_natOctet short
  refine judgeWriteScript_range tag number.symm (.inr (.inr ?_)) s
  rcases h with h | ⟨excess, -⟩
  · exact .inl (by rw [h]; rfl)
  · exact .inr (by rw [number]; exact excess)

/-- Write Script whose count does not fit its length octet is refused LENGTH (R131). -/
theorem judgeWriteScript_length (tag a b d : Octet) {len : Octet} {payload : List Octet}
    (h : payload.length ≠ len.toNat) (s : State) :
    judgeWriteScript (.plain 0x40 tag (a :: b :: d :: len :: payload)) s = refuse s .length := if_neg h

theorem judgeReadScript_entry (tag : Octet) (k : EntryNo) (s : State) :
    judgeReadScript (.plain 0x41 tag [natOctet k.val]) s = accept s (s.poll.script[k]).octets := by
  simp only [judgeReadScript, Command.plain, finOf_natOctet k (by decide : 64 ≤ 256)]

/-- Set Arbitration sets the mode, and answers with it and the rotation pointer (R143, R192; log 32). -/
theorem judgeSetArbitration_mode (tag : Octet) (mode : ArbMode) (s : State) :
    judgeSetArbitration (.plain 0x53 tag [mode.octet]) s =
      accept { s with poll := { s.poll with mode := mode } } [mode.octet, natOctet s.poll.pointer.val] := by
  cases mode <;> rfl

/-- Settles O41: each command by its judgement. -/
theorem scriptStoreAndArbitration : Obligations.ScriptStoreAndArbitration := by
  intro s rest tag k e
  refine ⟨?write, ?length, ?read, ?mode⟩
  case write =>
    rintro c rfl due
    exact ⟨fun least most => congrArg Host.Outcome.next
        (State.execute_accepted due (hasCode_plain ..) (judgeWriteScript_entry tag k least most (s.dequeued rest))),
      fun out => congrArg Host.Outcome.next
        (State.execute_refused due (hasCode_plain ..) (judgeWriteScript_entry_range tag k out _))⟩
  case length =>
    rintro c a b d len payload rfl due unfit
    exact congrArg Host.Outcome.next
      (State.execute_refused due (hasCode_plain ..) (judgeWriteScript_length tag a b d unfit _))
  case read =>
    rintro c rfl due
    exact congrArg Host.Outcome.next
      (State.execute_accepted due (hasCode_plain ..) (judgeReadScript_entry tag k (s.dequeued rest)))
  case mode =>
    rintro c mode rfl due
    exact congrArg Host.Outcome.next
      (State.execute_accepted due (hasCode_plain ..) (judgeSetArbitration_mode tag mode (s.dequeued rest)))

end Sys2Proof.Machine
end

section
/-! SUPPORT. The command parser between two commands (O17): a command's octets one by one, and the record that is complete with the last of them. -/

namespace Sys2Proof.Machine

variable {s : State} {code tag : Octet} {len : Nat}

/-! ### One octet -/

/-- A parser that is in a parse state already stays as it is. -/
theorem State.setCmdParse_self {p : CmdParse} (h : s.mgmt.parse = p) : s.setCmdParse p = s := by
  subst h
  rfl

/-- A complete command ends the parse state in which it is complete (R151). -/
theorem State.commandComplete_setCmdParse (s : State) (p : CmdParse) (c : Command) :
    (s.setCmdParse p).commandComplete c = s.commandComplete c := rfl

theorem State.feedCommand_fill (parse : s.mgmt.parse = .between) : s.feedCommand 0x00 = s := by
  simp only [State.feedCommand, parse]
  exact if_pos rfl

theorem State.feedCommand_code (parse : s.mgmt.parse = .between) (code0 : code ≠ 0x00) :
    s.feedCommand code = s.setCmdParse (.length code) := by
  simp only [State.feedCommand, parse]
  exact if_neg code0

/-- The length octet is noted, and the tag is awaited (R151). -/
theorem State.feedCommand_length (s : State) (code o : Octet) :
    (s.setCmdParse (.length code)).feedCommand o = s.setCmdParse (.tag code o.toNat) := rfl

/-- The tag of a command without parameters completes it (R151). -/
theorem State.feedCommand_tag_last (s : State) (code tag : Octet) :
    (s.setCmdParse (.tag code 0)).feedCommand tag =
      s.commandComplete { code := code, length := 0, tag := tag, params := [], overlength := false } := rfl

/-- The tag of a command that fits is followed by its parameters (R151). -/
theorem State.feedCommand_tag_fits (s : State) (code tag : Octet) (nonempty : len ≠ 0) (fits : len ≤ 40) :
    (s.setCmdParse (.tag code len)).feedCommand tag = s.setCmdParse (.parameters code len tag []) :=
  (if_neg nonempty).trans (if_pos fits)

/-- The tag of a command above 40 parameters is followed by octets that are consumed (R152). -/
theorem State.feedCommand_tag_over (s : State) (code tag : Octet) (long : 40 < len) :
    (s.setCmdParse (.tag code len)).feedCommand tag = s.setCmdParse (.overlength code len tag len) :=
  (if_neg (by omega)).trans (if_neg (Nat.not_le.mpr long))

/-- An octet of an overlength record that is not its last is consumed (R152). -/
theorem State.feedCommand_overlength_more {left : Nat} (s : State) (code tag o : Octet) (more : 1 < left) :
    (s.setCmdParse (.overlength code len tag left)).feedCommand o =
      s.setCmdParse (.overlength code len tag (left - 1)) := if_neg (Nat.not_le.mpr more)

/-! ### The parameters -/

/-- The parameters that are missing complete the command with those received (R151). -/
theorem State.feedCommand_parameters (s : State) (code tag : Octet) (received : List Octet) (o : Octet)
    (params : List Octet) (count : len = received.length + (o :: params).length) :
    (o :: params).foldl State.feedCommand (s.setCmdParse (.parameters code len tag received)) =
      s.commandComplete
        { code := code, length := len, tag := tag, params := received ++ o :: params, overlength := false } := by
  induction params generalizing received o with
  | nil =>
    have last : len ≤ (received ++ [o]).length := by simp [count]
    exact if_pos last
  | cons p params ih =>
    have more : ¬len ≤ (received ++ [o]).length := by simp [count]
    have next : (s.setCmdParse (.parameters code len tag received)).feedCommand o =
        s.setCmdParse (.parameters code len tag (received ++ [o])) := if_neg more
    rw [List.foldl_cons, next, ih (received ++ [o]) p (by simp [count]; omega), List.append_assoc]
    rfl

/-- The octets that an overlength record still has complete it, and none of them is kept (R152). -/
theorem State.feedCommand_overlength (s : State) (code tag : Octet) (o : Octet) (octets : List Octet) :
    (o :: octets).foldl State.feedCommand (s.setCmdParse (.overlength code len tag (o :: octets).length)) =
      s.commandComplete { code := code, length := len, tag := tag, params := [], overlength := true } := by
  induction octets generalizing o with
  | nil => rfl
  | cons p octets ih =>
    rw [List.foldl_cons, State.feedCommand_overlength_more s code tag o (by simp)]
    exact ih p

/-! ### The command -/

/-- The command that a code, a tag and parameters make: above 40 parameters its header alone, marked overlength (R151,
R152). -/
def Command.received (code tag : Octet) (params : List Octet) : Command :=
  { code := code, length := params.length, tag := tag, params := if params.length ≤ 40 then params else []
    overlength := decide (40 < params.length) }

theorem Command.received_fits {params : List Octet} (fits : params.length ≤ 40) :
    Command.received code tag params = .plain code tag params := by
  simp only [Command.received, Command.plain, if_pos fits, decide_eq_false (Nat.not_lt.mpr fits)]

theorem Command.received_over {params : List Octet} (long : 40 < params.length) :
    Command.received code tag params =
      { code := code, length := params.length, tag := tag, params := [], overlength := true } := by
  simp only [Command.received, if_neg (Nat.not_le.mpr long), decide_eq_true long]

/-- The octets of a command, from its code on, complete it (R151, R152). -/
theorem State.feedCommand_octets {len : Octet} {params : List Octet} (parse : s.mgmt.parse = .between)
    (code0 : code ≠ 0x00) (count : len.toNat = params.length) :
    (code :: len :: tag :: params).foldl State.feedCommand s =
      s.commandComplete (.received code tag params) := by
  simp only [List.foldl_cons, State.feedCommand_code parse code0, State.feedCommand_length, count]
  match params with
  | [] => rfl
  | o :: params =>
    by_cases fits : (o :: params).length ≤ 40
    · rw [State.feedCommand_tag_fits s code tag (by simp) fits,
        State.feedCommand_parameters s code tag [] o params (Nat.zero_add _).symm, Command.received_fits fits]
      rfl
    · have long := Nat.lt_of_not_le fits
      rw [State.feedCommand_tag_over s code tag long, State.feedCommand_overlength, Command.received_over long]

/-- A complete command joins a Command Input Buffer that has room (R153). -/
theorem State.commandComplete_joins (parse : s.mgmt.parse = .between) (room : s.mgmt.cib.length < 4) (c : Command) :
    s.commandComplete c =
      { s with mgmt := { s.mgmt with cib := s.mgmt.cib ++ [c], accepted := satInc s.mgmt.accepted } } := by
  rw [State.commandComplete, State.setCmdParse_self parse]
  exact if_pos room

/-- A complete command that finds the Command Input Buffer full is discarded (R153). -/
theorem State.commandComplete_discarded (parse : s.mgmt.parse = .between) (full : 4 ≤ s.mgmt.cib.length) (c : Command) :
    s.commandComplete c =
      { s with mgmt := { s.mgmt with discarded := satInc s.mgmt.discarded } }.raise .mgmtDiscard := by
  rw [State.commandComplete, State.setCmdParse_self parse]
  exact if_neg (Nat.not_lt.mpr full)

/-- Settles O17: the octets complete one command (`State.feedCommand_octets`), and the buffer's room decides what
becomes of it. -/
theorem commandOctetsMakeACommand : Obligations.CommandOctetsMakeACommand := by
  intro s code len tag params parse code0 count c
  have octets : (code :: len :: tag :: params).foldl State.feedCommand s = s.commandComplete c :=
    State.feedCommand_octets parse code0 count
  exact ⟨State.feedCommand_fill parse, fun room => octets.trans (State.commandComplete_joins parse room c),
    fun full => octets.trans (State.commandComplete_discarded parse full c)⟩

end Sys2Proof.Machine
end

section
/-! SUPPORT. The rows of the management commands: which commands a row names, and what becomes of one that is refused or is not the row's: unknown and miscounted commands (O47), and what cannot arise (O52). -/

namespace Sys2Proof.Machine

variable {s : State} {rest : List Command} {c : Command} {i : Instr} {names : Command → Bool}
  {judge : Command → State → Judged}

/-! ### Rows -/

/-- The row of a management command: it executes the command at the head when `names` picks it, as `judge` says (R155;
log 2). -/
def Executes (i : Instr) (names : Command → Bool) (judge : Command → State → Judged) : Prop :=
  ∀ s : State, exec i s = .next (s.execute names judge)

theorem Executes.not_due (row : Executes i names judge)
    (h : s.mgmt.cib = [] ∨ 4 ≤ s.mgmt.responses.length ∨ s.mgmt.exec ≠ .ready) : exec i s = .next s := by
  rw [row s, State.execute_not_due h]

theorem Executes.unnamed (row : Executes i names judge) (head : s.mgmt.cib = c :: rest) (h : names c = false) :
    exec i s = .next s := by
  rw [row s, State.execute_unnamed]
  intro d hd
  rw [head, List.head?_cons, Option.some.injEq] at hd
  exact hd ▸ h

theorem Executes.refused {st : Status} (row : Executes i names judge) (due : s.Due c rest) (named : names c = true)
    (judged : ∀ u, judge c u = refuse u st) : exec i s = .next (s.answered rest (c.answer st [])) := by
  rw [row s, State.execute_refused due named (judged _)]

theorem hasCode_iff {code : Octet} : hasCode code c = true ↔ c.overlength = false ∧ c.code = code := by
  simp [hasCode]

theorem resetNames_hasCode {sc : Scope} (h : resetNames sc c = true) : hasCode 0x04 c = true :=
  (Bool.and_eq_true_iff.mp h).1

theorem controlNames_hasCode {place : Nat} {value : Octet} (h : controlNames place value c = true) :
    hasCode 0x12 c = true := (Bool.and_eq_true_iff.mp h).1

theorem pollNames_hasCode {a : PollAction} (h : pollNames a c = true) : hasCode 0x52 c = true :=
  (Bool.and_eq_true_iff.mp h).1

/-- The rows of the command codes (R187). -/
def codedRows : List (Instr × Octet) :=
  [(.readIdent, 0x01), (.readEvents, 0x02), (.readCounters, 0x03), (.resetDevice, 0x04), (.resetLines, 0x04),
    (.resetCounters, 0x04), (.setSupervision, 0x05), (.enterQuiet, 0x06), (.setLine, 0x10), (.readLine, 0x11),
    (.lineControl, 0x12), (.receiverOn, 0x12), (.receiverOff, 0x12), (.transmitterOn, 0x12), (.transmitterOff, 0x12),
    (.flush, 0x12), (.writeStation, 0x20), (.invalidateStation, 0x21), (.readStation, 0x22), (.writeSlot, 0x30),
    (.readSlot, 0x31), (.swapBanks, 0x32), (.writeScript, 0x40), (.readScript, 0x41), (.setChannel, 0x50),
    (.readChannel, 0x51), (.arm, 0x52), (.mask, 0x52), (.pollNow, 0x52), (.setArbitration, 0x53), (.readBuffer, 0x60)]

/-- A row that names commands of one code alone. -/
def ExecutesCode (i : Instr) (code : Octet) : Prop :=
  ∃ names judge, Executes i names judge ∧ ∀ c, names c = true → hasCode code c = true

theorem ExecutesCode.whole {code : Octet} (row : Executes i (hasCode code) judge) : ExecutesCode i code :=
  ⟨_, judge, row, fun _ => id⟩

theorem ExecutesCode.reset {sc : Scope} (row : Executes i (resetNames sc) judge) : ExecutesCode i 0x04 :=
  ⟨_, judge, row, fun _ => resetNames_hasCode⟩

theorem ExecutesCode.control {place : Nat} {value : Octet} (row : Executes i (controlNames place value) judge) :
    ExecutesCode i 0x12 :=
  ⟨_, judge, row, fun _ => controlNames_hasCode⟩

theorem ExecutesCode.poll {a : PollAction} (row : Executes i (pollNames a) judge) : ExecutesCode i 0x52 :=
  ⟨_, judge, row, fun _ => pollNames_hasCode⟩

/-- Each row of a command code names commands of its code alone (R187; log 2). -/
theorem codedRows_execute : ∀ row ∈ codedRows, ExecutesCode row.1 row.2 := by
  simp only [codedRows, List.forall_mem_cons]
  exact ⟨.whole fun _ => rfl, .whole fun _ => rfl, .whole fun _ => rfl,
    .reset fun _ => rfl, .reset fun _ => rfl, .reset fun _ => rfl,
    .whole fun _ => rfl, .whole fun _ => rfl, .whole fun _ => rfl, .whole fun _ => rfl, .whole fun _ => rfl,
    .control fun _ => rfl, .control fun _ => rfl, .control fun _ => rfl, .control fun _ => rfl, .control fun _ => rfl,
    .whole fun _ => rfl, .whole fun _ => rfl, .whole fun _ => rfl, .whole fun _ => rfl, .whole fun _ => rfl,
    .whole fun _ => rfl, .whole fun _ => rfl, .whole fun _ => rfl, .whole fun _ => rfl, .whole fun _ => rfl,
    .poll fun _ => rfl, .poll fun _ => rfl, .poll fun _ => rfl, .whole fun _ => rfl, .whole fun _ => rfl,
    List.forall_mem_nil _⟩

theorem unknownCommand_executes :
    Executes .unknownCommand (fun c => !c.overlength && !knownCodes.contains c.code) fun _ t => refuse t .unknown :=
  fun _ => rfl

theorem overlengthCommand_executes :
    Executes .overlengthCommand (fun c => c.overlength) fun _ t => refuse t .length := fun _ => rfl

/-! ### Unknown and miscounted commands -/

/-- The rows of a fixed parameter count, each with its code and its count (R186, R187). -/
def countedRows : List (Instr × Octet × Nat) :=
  [(.readIdent, 0x01, 0), (.readEvents, 0x02, 0), (.readCounters, 0x03, 2), (.resetDevice, 0x04, 1),
    (.resetLines, 0x04, 1), (.resetCounters, 0x04, 1), (.setSupervision, 0x05, 2), (.enterQuiet, 0x06, 1),
    (.setLine, 0x10, 12), (.readLine, 0x11, 1), (.lineControl, 0x12, 4), (.writeStation, 0x20, 7),
    (.invalidateStation, 0x21, 1), (.readStation, 0x22, 1), (.writeSlot, 0x30, 4), (.readSlot, 0x31, 2),
    (.swapBanks, 0x32, 0), (.readScript, 0x41, 1), (.setChannel, 0x50, 10), (.readChannel, 0x51, 1), (.arm, 0x52, 2),
    (.mask, 0x52, 2), (.pollNow, 0x52, 2), (.setArbitration, 0x53, 1), (.readBuffer, 0x60, 0)]

theorem resetNames_miscounted {sc : Scope} (coded : hasCode 0x04 c = true) (miscount : c.params.length ≠ 1) :
    resetNames sc c = true := by
  rw [resetNames, coded, Bool.true_and]
  split
  · rename_i fits
    exact absurd (congrArg List.length fits) miscount
  · rfl

theorem pollNames_miscounted {a : PollAction} (coded : hasCode 0x52 c = true) (miscount : c.params.length ≠ 2) :
    pollNames a c = true := by
  rw [pollNames, coded, Bool.true_and]
  split
  · rename_i fits
    exact absurd (congrArg List.length fits) miscount
  · rfl

/-- A row that names a command of its code with another parameter count, and refuses it LENGTH (R157). -/
def RefusesMiscount (i : Instr) (code : Octet) (count : Nat) : Prop :=
  ∃ names judge, Executes i names judge ∧
    ∀ c, hasCode code c = true → c.params.length ≠ count → names c = true ∧ ∀ u, judge c u = refuse u .length

theorem RefusesMiscount.whole {code : Octet} {count : Nat} (row : Executes i (hasCode code) judge)
    (judged : ∀ c, c.params.length ≠ count → ∀ u, judge c u = refuse u .length) : RefusesMiscount i code count :=
  ⟨_, judge, row, fun c coded miscount => ⟨coded, judged c miscount⟩⟩

theorem RefusesMiscount.reset {sc : Scope} (row : Executes i (resetNames sc) judge)
    (judged : ∀ c, c.params.length ≠ 1 → ∀ u, judge c u = refuse u .length) : RefusesMiscount i 0x04 1 :=
  ⟨_, judge, row, fun c coded miscount => ⟨resetNames_miscounted coded miscount, judged c miscount⟩⟩

theorem RefusesMiscount.poll {a : PollAction} (row : Executes i (pollNames a) judge)
    (judged : ∀ c, c.params.length ≠ 2 → ∀ u, judge c u = refuse u .length) : RefusesMiscount i 0x52 2 :=
  ⟨_, judge, row, fun c coded miscount => ⟨pollNames_miscounted coded miscount, judged c miscount⟩⟩

/-- Each row of a fixed count refuses a miscounted command of its code, the three rows of Reset and of Poll Control
alike (R157; log 2). -/
theorem countedRows_refuse : ∀ row ∈ countedRows, RefusesMiscount row.1 row.2.1 row.2.2 := by
  simp only [countedRows, List.forall_mem_cons]
  refine ⟨.whole (fun _ => rfl) ?_, .whole (fun _ => rfl) ?_, .whole (fun _ => rfl) ?_, .reset (fun _ => rfl) ?_,
    .reset (fun _ => rfl) ?_, .reset (fun _ => rfl) ?_, .whole (fun _ => rfl) ?_, .whole (fun _ => rfl) ?_,
    .whole (fun _ => rfl) ?_, .whole (fun _ => rfl) ?_, .whole (fun _ => rfl) ?_, .whole (fun _ => rfl) ?_,
    .whole (fun _ => rfl) ?_, .whole (fun _ => rfl) ?_, .whole (fun _ => rfl) ?_, .whole (fun _ => rfl) ?_,
    .whole (fun _ => rfl) ?_, .whole (fun _ => rfl) ?_, .whole (fun _ => rfl) ?_, .whole (fun _ => rfl) ?_,
    .poll (fun _ => rfl) ?_, .poll (fun _ => rfl) ?_, .poll (fun _ => rfl) ?_, .whole (fun _ => rfl) ?_,
    .whole (fun _ => rfl) ?_, List.forall_mem_nil _⟩
  all_goals
    intro c miscount u
    simp only [judgeReadIdent, judgeReadEvents, judgeReadCounters, judgeReset, judgeSetSupervision, judgeEnterQuiet,
      judgeSetLine, judgeReadLine, judgeLineControl, judgeWriteStation, judgeInvalidateStation, judgeReadStation,
      judgeWriteSlot, judgeReadSlot, judgeSwapBanks, judgeReadScript, judgeSetChannel, judgeReadChannel,
      judgePollControl, judgeSetArbitration, judgeReadBuffer]
    split
    · rename_i fits
      exact absurd (congrArg List.length fits) miscount
    · rfl

theorem judgeWriteScript_miscounted (short : c.params.length < 4) (u : State) :
    judgeWriteScript c u = refuse u .length := by
  rw [judgeWriteScript]
  split
  · rename_i long
    rw [long] at short
    simp only [List.length_cons] at short
    omega
  · rfl

/-- Settles O47: each row of a fixed count by `countedRows_refuse`, Write Script by its least count. -/
theorem unknownAndMiscountedCommands : Obligations.UnknownAndMiscountedCommands := by
  intro s rest c due
  refine ⟨fun whole unknown => ?unknown, fun long => ?overlength, fun i count row whole miscount => ?counted,
    fun whole code short => ?script⟩
  case unknown =>
    have unnamed : c.code ∉ knownCodes := unknown
    have named : (!c.overlength && !knownCodes.contains c.code) = true := by
      rw [whole, List.contains_eq_mem, decide_eq_false unnamed]
      rfl
    exact unknownCommand_executes.refused due named fun _ => rfl
  case overlength => exact overlengthCommand_executes.refused due long fun _ => rfl
  case counted =>
    obtain ⟨names, judge, executes, refuses⟩ := countedRows_refuse (i, c.code, count) row
    obtain ⟨named, judged⟩ := refuses c (hasCode_iff.mpr ⟨whole, rfl⟩) miscount
    exact executes.refused due named judged
  case script =>
    have row : Executes .writeScript (hasCode 0x40) judgeWriteScript := fun _ => rfl
    exact row.refused due (hasCode_iff.mpr ⟨whole, code⟩) (judgeWriteScript_miscounted short)

/-! ### Commands of other rows -/

/-- The rows of the management commands. -/
def managementRows : List Instr :=
  [.readIdent, .readEvents, .readCounters, .resetDevice, .resetLines, .resetCounters, .setSupervision, .enterQuiet,
    .setLine, .readLine, .receiverOn, .receiverOff, .transmitterOn, .transmitterOff, .flush, .writeStation,
    .invalidateStation, .readStation, .writeSlot, .readSlot, .swapBanks, .writeScript, .readScript, .setChannel,
    .readChannel, .arm, .mask, .pollNow, .setArbitration, .readBuffer, .unknownCommand, .overlengthCommand,
    .lineControl]

theorem managementRows_execute (row : i ∈ managementRows) : ∃ names judge, Executes i names judge := by
  have rows : ∀ i ∈ managementRows,
      (∃ row ∈ codedRows, row.1 = i) ∨ i = .unknownCommand ∨ i = .overlengthCommand := by decide
  rcases rows i row with ⟨⟨_, code⟩, coded, rfl⟩ | rfl | rfl
  · obtain ⟨names, judge, executes, -⟩ := codedRows_execute _ coded
    exact ⟨names, judge, executes⟩
  · exact ⟨_, _, unknownCommand_executes⟩
  · exact ⟨_, _, overlengthCommand_executes⟩

/-- The row of a command code leaves an overlength record and a command of another code alone (log 2). -/
theorem exec_codedRow_other {code : Octet} (row : (i, code) ∈ codedRows) (head : s.mgmt.cib = c :: rest)
    (other : c.overlength = true ∨ c.code ≠ code) : exec i s = .next s := by
  obtain ⟨names, judge, executes, named⟩ := codedRows_execute _ row
  refine executes.unnamed head (Bool.eq_false_of_not_eq_true fun h => ?_)
  obtain ⟨whole, same⟩ := hasCode_iff.mp (named c h)
  rcases other with long | differs
  · exact Bool.false_ne_true (whole.symm.trans long)
  · exact differs same

/-- The rows of single Line Control actions, each with the place and the value of its action (log 3). -/
def controlRows : List (Instr × Nat × Octet) :=
  [(.receiverOn, 1, 0x01), (.receiverOff, 1, 0x02), (.transmitterOn, 2, 0x01), (.transmitterOff, 2, 0x02),
    (.flush, 3, 0x01)]

theorem controlRows_execute : ∀ row ∈ controlRows, Executes row.1 (controlNames row.2.1 row.2.2) judgeLineControl := by
  simp only [controlRows, List.forall_mem_cons]
  exact ⟨fun _ => rfl, fun _ => rfl, fun _ => rfl, fun _ => rfl, fun _ => rfl, List.forall_mem_nil _⟩

theorem exec_controlRow_other {place : Nat} {action : Octet} (row : (i, place, action) ∈ controlRows)
    (head : s.mgmt.cib = c :: rest) (other : c.params[place]? ≠ some action) : exec i s = .next s := by
  refine (controlRows_execute _ row).unnamed head (Bool.eq_false_of_not_eq_true fun h => other ?_)
  exact beq_iff_eq.mp (Bool.and_eq_true_iff.mp h).2

/-- The rows of Reset, each with its scope (R188). -/
def resetRows : List (Instr × Octet) := [(.resetDevice, 0x01), (.resetLines, 0x02), (.resetCounters, 0x03)]

theorem resetRows_execute :
    ∀ row ∈ resetRows, ∃ sc judge, Scope.ofOctet row.2 = some sc ∧ Executes row.1 (resetNames sc) judge := by
  simp only [resetRows, List.forall_mem_cons]
  exact ⟨⟨_, _, rfl, fun _ => rfl⟩, ⟨_, _, rfl, fun _ => rfl⟩, ⟨_, _, rfl, fun _ => rfl⟩, List.forall_mem_nil _⟩

theorem Scope.ofOctet_inj {a b : Octet} {sc : Scope} (ha : Scope.ofOctet a = some sc)
    (hb : Scope.ofOctet b = some sc) : a = b := by
  unfold Scope.ofOctet at ha hb
  grind

theorem Scope.ofOctet_isSome {o : Octet} (low : 1 ≤ o.toNat) (high : o.toNat ≤ 3) :
    ∃ sc, Scope.ofOctet o = some sc := by
  have three : o = 0x01 ∨ o = 0x02 ∨ o = 0x03 := by bv_omega
  rcases three with rfl | rfl | rfl
  · exact ⟨.device, rfl⟩
  · exact ⟨.lines, rfl⟩
  · exact ⟨.counters, rfl⟩

/-- The row of a scope does not name a Reset of another scope (log 2). -/
theorem exec_resetRow_other {scope o : Octet} (row : (i, scope) ∈ resetRows) (head : s.mgmt.cib = c :: rest)
    (params : c.params = [o]) (low : 1 ≤ o.toNat) (high : o.toNat ≤ 3) (other : o ≠ scope) : exec i s = .next s := by
  obtain ⟨sc, judge, own, executes⟩ := resetRows_execute _ row
  obtain ⟨sc', given⟩ := Scope.ofOctet_isSome low high
  have differs : sc' ≠ sc := fun same => other (Scope.ofOctet_inj (same ▸ given) own)
  refine executes.unnamed head ?_
  simp [resetNames, params, given, differs]

/-- The rows of Poll Control, each with its action (R192). -/
def pollRows : List (Instr × Octet) := [(.arm, 0x00), (.mask, 0x01), (.pollNow, 0x02)]

theorem pollRows_execute :
    ∀ row ∈ pollRows, ∃ a judge, PollAction.ofOctet row.2 = some a ∧ Executes row.1 (pollNames a) judge := by
  simp only [pollRows, List.forall_mem_cons]
  exact ⟨⟨_, _, rfl, fun _ => rfl⟩, ⟨_, _, rfl, fun _ => rfl⟩, ⟨_, _, rfl, fun _ => rfl⟩, List.forall_mem_nil _⟩

theorem PollAction.ofOctet_inj {a b : Octet} {p : PollAction} (ha : PollAction.ofOctet a = some p)
    (hb : PollAction.ofOctet b = some p) : a = b := by
  unfold PollAction.ofOctet at ha hb
  grind

theorem PollAction.ofOctet_isSome {o : Octet} (high : o.toNat ≤ 2) : ∃ a, PollAction.ofOctet o = some a := by
  rcases switchOctet_cases high with rfl | rfl | rfl
  · exact ⟨.arm, rfl⟩
  · exact ⟨.mask, rfl⟩
  · exact ⟨.pollNow, rfl⟩

/-- The row of an action does not name a Poll Control of another action (log 2). -/
theorem exec_pollRow_other {action channel o : Octet} (row : (i, action) ∈ pollRows) (head : s.mgmt.cib = c :: rest)
    (params : c.params = [channel, o]) (channels : channel.toNat ≤ 7) (high : o.toNat ≤ 2) (other : o ≠ action) :
    exec i s = .next s := by
  obtain ⟨a, judge, own, executes⟩ := pollRows_execute _ row
  obtain ⟨b, given⟩ := PollAction.ofOctet_isSome high
  have differs : b ≠ a := fun same => other (PollAction.ofOctet_inj (same ▸ given) own)
  have channel : finOf 8 channel = some ⟨channel.toNat, by omega⟩ := dif_pos (by omega)
  refine executes.unnamed head ?_
  simp [pollNames, params, channel, given, differs]

/-! ### Events that cannot arise -/

/-- No upstream frame begins in a held part, in QUIET, or while the frame in progress lacks octets (R1, R11, R169). -/
theorem State.mayStartFrame_false
    (h : s.held ≠ .no ∨ s.framer.rx = .quiet ∨ (s.framer.txOctets ≠ [] ∧ s.framer.txOctets.length ≠ 31)) :
    s.mayStartFrame = false := by
  rcases h with held | quiet | ⟨begun, short⟩
  · simp [State.mayStartFrame, held]
  · simp [State.mayStartFrame, quiet]
  · simp [State.mayStartFrame, begun, short]

/-- No bit is taken in a held part or in QUIET, and none from an empty row (R3, R11, R169). -/
theorem exec_downstreamFrameJudged_none {bits : List Bool} {octets : List Octet}
    (h : s.held ≠ .no ∨ s.framer.rx = .quiet ∨ (bits = [] ∧ octets = [])) :
    exec (.downstreamFrameJudged bits octets) s = .next s := by
  have row : exec (.downstreamFrameJudged bits octets) s =
      .next (if s.held = .no then (bits ++ trunkBits octets).foldl State.takeBit s else s) := rfl
  rw [row]
  rcases h with held | quiet | ⟨rfl, rfl⟩
  · rw [if_neg held]
  · rw [State.takeBits_quiet s _ quiet, ite_self]
  · exact congrArg Host.Outcome.next (ite_self s)

theorem exec_replyTimeout_none {n : LineNo}
    (h : (s.line n).wait = none ∨ (∃ w, (s.line n).wait = some w ∧ (w.begun = true ∨ w.timer ≠ some 0))) :
    exec (.replyTimeout n) s = .next s := by
  show execReplyTimeout n s = .next s
  rcases h with waits | ⟨w, waits, begun⟩
  · rw [execReplyTimeout, waits]
  · have running : ¬(w.begun = false ∧ w.timer = some 0) := by
      rintro ⟨fresh, elapsed⟩
      rcases begun with begun | running
      · exact Bool.false_ne_true (fresh.symm.trans begun)
      · exact running elapsed
    rw [execReplyTimeout, waits]
    exact congrArg Host.Outcome.next (if_neg running)

theorem exec_transmitRecordEnd_none {n : LineNo} (h : (s.line n).sending = false ∨ (s.line n).downQueue = []) :
    exec (.transmitRecordEnd n) s = .next s := by
  show execTransmitRecordEnd n s = .next s
  rcases h with still | empty
  · rw [execTransmitRecordEnd, still]
    rfl
  · rw [execTransmitRecordEnd, empty]
    exact congrArg Host.Outcome.next (ite_self s)

/-- Settles O52: the events by the conditions of their rows, and the management commands by the commands that their
rows name. -/
theorem whatCannotAriseChangesNothing : Obligations.WhatCannotAriseChangesNothing := by
  intro s
  have idle {p : Prop} [Decidable p] {t : State} (h : ¬p) :
      (.next (if p then t else s) : Host.Outcome State Fault Refusal) = .next s := congrArg _ (if_neg h)
  refine ⟨fun h => ?frame, fun h => ?slot, fun h => idle h, fun h => ?quiet,
    fun bits octets h => exec_downstreamFrameJudged_none h,
    fun n => ⟨fun _ h => idle h, fun h => ?gap, exec_replyTimeout_none, exec_transmitRecordEnd_none⟩,
    fun h => ?supervision, fun h i row => ?notDue, fun c rest head => ⟨fun i code row => exec_codedRow_other row head,
      fun h => ?unknown, overlengthCommand_executes.unnamed head,
      fun i place action row => exec_controlRow_other row head,
      fun i scope o row => exec_resetRow_other row head,
      fun i action channel o row => exec_pollRow_other row head⟩⟩
  case frame => exact idle (Bool.eq_false_iff.mp (State.mayStartFrame_false h))
  case slot => exact congrArg _ (dif_neg (by omega))
  case quiet =>
    refine idle ?_
    rintro ⟨rx, flag, last⟩
    rcases h with h | h | h
    · exact h rx
    · exact Bool.false_ne_true (flag.symm.trans h)
    · exact h last
  case gap => exact idle (by simp [h])
  case supervision =>
    refine idle ?_
    rintro ⟨elapsed, flag⟩
    rcases h with h | h
    · exact h elapsed
    · exact Bool.false_ne_true (flag.symm.trans h)
  case notDue =>
    obtain ⟨names, judge, executes⟩ := managementRows_execute row
    exact executes.not_due h
  case unknown =>
    refine unknownCommand_executes.unnamed head ?_
    rcases h with long | known
    · rw [long]
      rfl
    · have named : c.code ∈ knownCodes := known
      rw [List.contains_eq_mem, decide_eq_true named]
      exact Bool.and_false _

end Sys2Proof.Machine
end

section
/-! SUPPORT. Reading the part: Read Ident and Read Buffer (O42), Read Events (O43), and the counters read and cleared (O44). -/

namespace Sys2Proof.Machine

/-- A due command of a row's code that is accepted: its effect, and its answer. -/
theorem exec_accepted {i : Instr} {judge : Command → State → Judged} {s t : State} {rest : List Command}
    {code tag : Octet} {params results : List Octet} (row : Executes i (hasCode code) judge)
    (due : s.Due (.plain code tag params) rest)
    (judged : judge (.plain code tag params) (s.dequeued rest) = accept t results) :
    exec i s = .next (t.replied ((Command.plain code tag params).answer .ok results)) := by
  rw [row s, State.execute_accepted due (hasCode_plain ..) judged]

/-! ### Identification and storage -/

/-- Settles O42: both commands are accepted, with the values they report as results, and change nothing. -/
theorem readIdentAndReadBuffer : Obligations.ReadIdentAndReadBuffer := by
  intro s rest tag
  refine ⟨?ident, ?buffer⟩
  case ident =>
    rintro c rfl due
    exact exec_accepted (judge := judgeReadIdent) (fun _ => rfl) due rfl
  case buffer =>
    rintro c rfl due
    exact exec_accepted (judge := judgeReadBuffer) (fun _ => rfl) due rfl

/-! ### The Event Summary -/

theorem Condition.all_nodup : Condition.all.Nodup := by decide

/-- What Read Events gives of a condition: its code and count, and the value that RESTARTED and WAKE hold (R161). -/
theorem Events.given_eq (e : Events) (x : Condition) :
    e.given x =
      match e.count x with
      | none => []
      | some v =>
        [x.octet, v] ++ (if x = .restarted then [e.cause.octet] else []) ++
          (if x = .wake then [wakeOctet e.source] else []) := by
  unfold Events.given
  cases e.count x with
  | none => rfl
  | some v => cases x <;> rfl

/-- Settles O43: the conditions that are given are those of `Events.drainInto_spec`. -/
theorem readEventsDrainsTheSummary : Obligations.ReadEventsDrainsTheSummary := by
  rintro s rest tag c rfl due e entry
  have given : e.given = entry := funext e.given_eq
  obtain ⟨k, results, fits, cause, source, counts, next⟩ :=
    Events.drainInto_spec e Condition.all e [] Condition.all_nodup (Nat.zero_le _) rfl rfl fun _ _ => rfl
  simp only [List.nil_append, given] at results fits next
  have left : (Events.drainInto Condition.all e []).1 =
      { e with counts := (Events.drainInto Condition.all e []).1.counts } := by
    rw [← cause, ← source]
  have judged : judgeReadEvents (.plain 0x02 tag []) (s.dequeued rest) =
      accept { s.dequeued rest with mgmt := { (s.dequeued rest).mgmt with
          events := { e with counts := (Events.drainInto Condition.all e []).1.counts } } }
        ((Condition.all.take k).flatMap entry) := by
    rw [← left, ← results]
    rfl
  have row : Executes .readEvents (hasCode 0x02) judgeReadEvents := fun _ => rfl
  exact ⟨k, (Events.drainInto Condition.all e []).1.counts, exec_accepted row due judged, fits, counts, next⟩

/-! ### Counters -/

theorem CounterGroup.ofOctet_line (n : LineNo) : CounterGroup.ofOctet (natOctet n.val) = some (.line n) := by
  revert n
  decide

/-- Read Counters of a group (R162, R163). -/
theorem judgeReadCounters_group (tag : Octet) {group : Octet} {g : CounterGroup} (clear : Bool) (s : State)
    (named : CounterGroup.ofOctet group = some g) :
    judgeReadCounters (.plain 0x03 tag [group, boolOctet clear]) s =
      accept (if clear then s.clearCounters g else s) ((s.counters g).flatMap halfOctets) := by
  simp only [judgeReadCounters, Command.plain, named, boolOf_boolOctet]

/-- A command that leaves the buffer is none of the counters that are read. -/
theorem State.counters_dequeued (s : State) (rest : List Command) (g : CounterGroup) :
    (s.dequeued rest).counters g = s.counters g := by
  cases g <;> rfl

theorem State.clearCounters_dequeued (s : State) (rest : List Command) (g : CounterGroup) :
    (s.dequeued rest).clearCounters g = (s.clearCounters g).dequeued rest := by
  cases g <;> rfl

/-- A due Read Counters gives its group and, with its flag, clears it (R162, R163). -/
theorem exec_readCounters {s : State} {rest : List Command} {tag group : Octet} {g : CounterGroup} {clear : Bool}
    (named : CounterGroup.ofOctet group = some g) (due : s.Due (.plain 0x03 tag [group, boolOctet clear]) rest) :
    exec .readCounters s =
      .next
        ((if clear then s.clearCounters g else s).answered rest
          ((Command.plain 0x03 tag [group, boolOctet clear]).answer .ok ((s.counters g).flatMap halfOctets))) := by
  have row : Executes .readCounters (hasCode 0x03) judgeReadCounters := fun _ => rfl
  rw [exec_accepted row due (judgeReadCounters_group tag clear _ named), State.counters_dequeued,
    State.clearCounters_dequeued]
  cases clear <;> rfl

/-- Settles O44: each group by `exec_readCounters`, and Reset of COUNTERS scope by its effect. -/
theorem countersAreReadAndCleared : Obligations.CountersAreReadAndCleared := by
  intro s rest tag clear flag
  refine ⟨?line, ?trunk, ?discards, ?management, ?reset⟩
  case line =>
    rintro c n rfl due
    exact exec_readCounters (CounterGroup.ofOctet_line n) due
  case trunk =>
    rintro c rfl due
    exact exec_readCounters (g := .trunk) rfl due
  case discards =>
    rintro c rfl due
    exact exec_readCounters (g := .discards) rfl due
  case management =>
    rintro c rfl due
    exact exec_readCounters (g := .management) rfl due
  case reset =>
    rintro c rfl due
    have row : Executes .resetCounters (resetNames .counters)
        (judgeReset .counters fun t => accept t.countersReset []) := fun _ => rfl
    rw [row s, State.execute_accepted due rfl rfl]
    rfl

end Sys2Proof.Machine
end

section
/-! SUPPORT. Reset of DEVICE scope and of LINES scope (O45): what each leaves of the part, block by block. -/

namespace Sys2Proof.Machine

variable {s : State} {rest : List Command} {tag : Octet}

/-! ### DEVICE scope -/

theorem resetDevice_executes : Executes .resetDevice (resetNames .device) (judgeReset .device deviceReset) :=
  fun _ => rfl

/-- While transmit-enable holds, a DEVICE-scope Reset is answered and awaits its response (R156, R170). -/
theorem exec_resetDevice_awaits (due : s.Due (.plain 0x04 tag [0x01]) rest) (enabled : s.framer.transmitEnable = true) :
    exec .resetDevice s =
      .next
        ({ s with mgmt := { s.mgmt with exec := .awaitingReset } }.answered rest
          { (Command.plain 0x04 tag [0x01]).answer .ok [] with governs := .deviceReset }) := by
  have judged : judgeReset .device deviceReset (.plain 0x04 tag [0x01]) (s.dequeued rest) =
      { state := { s.dequeued rest with mgmt := { (s.dequeued rest).mgmt with exec := .awaitingReset } }
        reply := some (.ok, [], .deviceReset) } := if_pos enabled
  rw [resetDevice_executes s, State.execute_due due rfl, judged]
  rfl

/-- While transmit-enable does not hold, a DEVICE-scope Reset takes place at once, unanswered (R170, R171). -/
theorem exec_resetDevice_atOnce (due : s.Due (.plain 0x04 tag [0x01]) rest)
    (disabled : s.framer.transmitEnable = false) :
    exec .resetDevice s = .next (s.afterFullReset .command) := by
  have judged : judgeReset .device deviceReset (.plain 0x04 tag [0x01]) (s.dequeued rest) =
      { state := (s.dequeued rest).fullReset .command, reply := none } := if_neg (Bool.eq_false_iff.mp disabled)
  rw [resetDevice_executes s, State.execute_due due rfl, judged]
  rfl

/-! ### LINES scope -/

/-- The Downstream Parser that constructs no record is left alone (R114). -/
theorem State.linesResetParser_idle
    (h : s.parser.parse = .waitRestart ∨ s.parser.parse = .between ∨ (∃ k, s.parser.parse = .skip k)) :
    s.linesResetParser = s := by
  rcases h with h | h | ⟨k, h⟩
  all_goals simp only [State.linesResetParser, h]

/-- A header under construction is discarded INTERRUPTED, and the octets it announces are skipped (R114). -/
theorem State.linesResetParser_header {k : DownKind} {l : Option Nat} (h : s.parser.parse = .header k l) :
    s.linesResetParser = s.discardDown .interrupted (.skip (l.map fun len => len + 1)) := by
  cases l with
  | none => simp only [State.linesResetParser, h, Option.map_none]
  | some len => simp only [State.linesResetParser, h, Option.map_some]

/-- A record whose payload is being received is discarded INTERRUPTED, and what is left of it is skipped (R114). -/
theorem State.linesResetParser_payload {r : DownRecord} {k : Nat} (h : s.parser.parse = .payload r k) :
    s.linesResetParser = s.discardDown .interrupted (afterSkip (r.length - k)) := by
  simp only [State.linesResetParser, h]

/-- The interruption at a LINES-scope reset changes the Downstream Parser and the Event Summary alone (R114). -/
theorem State.linesResetParser_eq (s : State) :
    s.linesResetParser =
      { s with
        parser := s.linesResetParser.parser
        mgmt := { s.mgmt with events := s.linesResetParser.mgmt.events } } := by
  unfold State.linesResetParser
  split <;> rfl

/-- What a LINES-scope reset interrupts does not depend on the lines. -/
theorem State.linesResetParser_mapLines (s : State) (f : Line → Line) :
    (s.mapLines f).linesResetParser = s.linesResetParser.mapLines f := by
  unfold State.linesResetParser
  rw [State.mapLines_parser]
  split <;> rfl

/-- A LINES-scope reset, block by block (R40, R71, R75, R89, R104, R107, R114, R127, R129, R150, R166, R168). -/
theorem State.linesReset_eq (s : State) :
    s.linesReset =
      { (s.mapLines Line.linesReset).mapChans Channel.linesReset with
        buffer := { Buffer.reset with cells := s.buffer.cells }
        serializer := { s.serializer with lineHold := .inForce }
        parser := s.linesResetParser.parser
        mgmt :=
          { s.mgmt with
            parse := .waitRestart, cib := [], responses := s.keptResponses
            events := s.linesResetParser.mgmt.events } } := by
  simp only [State.linesReset]
  rw [State.linesResetParser_mapLines, State.linesResetParser_eq s]
  rfl

/-- The response being sent is kept, and governs nothing any more (R104, R105, R166). -/
theorem State.keptResponses_sending {k : Nat} (h : s.serializer.mgmtPos = .sending k) :
    s.keptResponses = (s.mgmt.responses.take 1).map fun r => { r with governs := .nothing } := by
  simp only [State.keptResponses, h]

theorem State.keptResponses_idle (h : ∀ k, s.serializer.mgmtPos ≠ .sending k) : s.keptResponses = [] := by
  unfold State.keptResponses
  split
  · rename_i k sending
    exact absurd sending (h k)
  · rfl
  · rfl

theorem exec_resetLines (due : s.Due (.plain 0x04 tag [0x02]) rest) :
    exec .resetLines s =
      .next
        ((s.dequeued rest).linesReset.replied
          { (Command.plain 0x04 tag [0x02]).answer .ok [] with governs := .lineRelease }) := by
  have row : Executes .resetLines (resetNames .lines)
      (judgeReset .lines fun t => { state := t.linesReset, reply := some (.ok, [], .lineRelease) }) := fun _ => rfl
  rw [row s, State.execute_due due rfl]
  rfl

/-- Settles O45: DEVICE scope by transmit-enable, and LINES scope block by block (`State.linesReset_eq`) and by the
parse state that it interrupts. -/
theorem resetCommands : Obligations.ResetCommands := by
  intro s rest tag
  refine ⟨?device, ?lines⟩
  case device =>
    rintro c rfl due
    exact ⟨exec_resetDevice_awaits due, exec_resetDevice_atOnce due⟩
  case lines =>
    rintro c rfl due
    refine ⟨(s.dequeued rest).linesReset, exec_resetLines due, (s.dequeued rest).linesReset_line,
      (s.dequeued rest).linesReset_chan, ?_⟩
    rw [State.linesReset_eq]
    refine ⟨rfl, rfl, rfl, rfl, fun ⟨k, sending⟩ => ?sending, fun still => ?still, fun quiet => ?quiet,
      fun reading => ?raised, fun k l header => ?header, fun r k payload more => ?payload, rfl, rfl, rfl, rfl, rfl, rfl,
      rfl, rfl, rfl, rfl, rfl, rfl⟩
    case sending => exact State.keptResponses_sending (s := s.dequeued rest) sending
    case still => exact State.keptResponses_idle (s := s.dequeued rest) still
    case quiet =>
      rw [State.linesResetParser_idle (s := s.dequeued rest) quiet]
      exact ⟨rfl, rfl⟩
    case raised =>
      rcases reading with ⟨k, l, header⟩ | ⟨r, k, payload⟩
      · rw [State.linesResetParser_header (s := s.dequeued rest) header]
        rfl
      · rw [State.linesResetParser_payload (s := s.dequeued rest) payload]
        rfl
    case header =>
      rw [State.linesResetParser_header (s := s.dequeued rest) header]
      exact ⟨rfl, rfl⟩
    case payload =>
      rw [State.linesResetParser_payload (s := s.dequeued rest) payload]
      exact ⟨if_neg (by omega), rfl⟩

end Sys2Proof.Machine
end

section
/-! SUPPORT. Quiet state and supervision: Set Supervision and Enter Quiet (O46), and the expiry of the Supervision Timer (O50). -/

namespace Sys2Proof.Machine

variable {s : State} {rest : List Command} {tag : Octet}

/-! ### Set Supervision -/

/-- Set Supervision with an action in its range stores the interval and the action (R174). -/
theorem judgeSetSupervision_plain (tag interval : Octet) {action : Octet} (h : action.toNat ≤ 1) (s : State) :
    judgeSetSupervision (.plain 0x05 tag [interval, action]) s =
      accept
        { s with sup := { s.sup with interval := interval, action := if action = 0x01 then .reset else .hold } } [] := by
  simp only [judgeSetSupervision, Command.plain, boolOf_eq h, beq_iff_eq]

/-! ### Enter Quiet -/

/-- What makes Enter Quiet BUSY (R176). -/
theorem State.quietBusy_iff (s : State) :
    s.quietBusy = true ↔
      (∃ n : LineNo, (s.line n).wait.isSome = true ∨ (s.line n).sending = true) ∨
        (∃ k : ChannelNo, (s.chan k).outstanding = true) ∨ s.framer.transmitEnable = false := by
  simp only [State.quietBusy, Bool.or_eq_true, List.any_eq_true, mem_allLines, mem_allChannels, true_and,
    Bool.not_eq_true', or_assoc]

/-- What makes Enter Quiet BUSY lies outside the Command Input Buffer. -/
theorem State.quietBusy_dequeued (s : State) (rest : List Command) : (s.dequeued rest).quietBusy = s.quietBusy := rfl

/-- The effect of Enter Quiet: the flag is stored, every Quiet hold is set, and the execution state awaits the
response (R176). -/
def State.quietAwaited (s : State) (w : Bool) : State :=
  { s.mapLines fun l => { l with quietHold := true } with
    quiet := { s.quiet with wakeOnTrunk := w }
    mgmt := { s.mgmt with exec := .awaitingQuiet } }

/-- Enter Quiet with a flag in its range, by whether the part is busy (R176). -/
theorem judgeEnterQuiet_plain (tag : Octet) {wake : Octet} (h : wake.toNat ≤ 1) (s : State) :
    judgeEnterQuiet (.plain 0x06 tag [wake]) s =
      if s.quietBusy then refuse s .busy
      else { state := s.quietAwaited (decide (wake = 0x01)), reply := some (.ok, [], .quietEntry) } := by
  simp only [judgeEnterQuiet, Command.plain, boolOf_eq h, State.quietAwaited, beq_eq_decide]

theorem exec_enterQuiet_busy {wake : Octet} (due : s.Due (.plain 0x06 tag [wake]) rest) (h : wake.toNat ≤ 1)
    (busy : s.quietBusy = true) :
    exec .enterQuiet s = .next (s.answered rest ((Command.plain 0x06 tag [wake]).answer .busy [])) := by
  have judged := judgeEnterQuiet_plain tag h (s.dequeued rest)
  rw [State.quietBusy_dequeued, if_pos busy] at judged
  exact congrArg Host.Outcome.next (State.execute_refused due (hasCode_plain ..) judged)

theorem exec_enterQuiet_awaits {wake : Octet} (due : s.Due (.plain 0x06 tag [wake]) rest) (h : wake.toNat ≤ 1)
    (free : ¬s.quietBusy = true) :
    exec .enterQuiet s =
      .next
        ((s.quietAwaited (decide (wake = 0x01))).answered rest
          { (Command.plain 0x06 tag [wake]).answer .ok [] with governs := .quietEntry }) := by
  have row : Executes .enterQuiet (hasCode 0x06) judgeEnterQuiet := fun _ => rfl
  rw [row s, State.execute_due due (hasCode_plain ..), judgeEnterQuiet_plain tag h, State.quietBusy_dequeued,
    if_neg free]
  rfl

/-- Settles O46: Set Supervision by its judgement, and Enter Quiet by whether `State.quietBusy` holds. -/
theorem setSupervisionAndEnterQuiet : Obligations.SetSupervisionAndEnterQuiet := by
  intro s rest tag
  refine ⟨?supervision, ?quiet⟩
  case supervision =>
    rintro c interval action rfl due inRange
    have row : Executes .setSupervision (hasCode 0x05) judgeSetSupervision := fun _ => rfl
    exact exec_accepted row due (judgeSetSupervision_plain tag interval inRange _)
  case quiet =>
    rintro c wake rfl due inRange
    exact ⟨fun busy => exec_enterQuiet_busy due inRange (s.quietBusy_iff.mpr busy),
      fun free => exec_enterQuiet_awaits due inRange fun busy => free (s.quietBusy_iff.mp busy)⟩

/-! ### The Supervision Timer's expiry -/

/-- A timer with time left does not expire (R173, R175). -/
theorem exec_supervisionExpiry_running {ms : Nat} (running : s.sup.timer = some (ms + 1)) :
    exec .supervisionExpiry s = .next s := by
  have left : ¬(s.sup.timer = some 0 ∧ s.quiet.flag = false) := by
    rintro ⟨elapsed, -⟩
    cases running.symm.trans elapsed
  exact congrArg Host.Outcome.next (if_neg left)

/-- Settles O50: an elapsed timer by its action, where RESET is `State.fullReset_eq`, and a timer with time left by
`exec_supervisionExpiry_running`. -/
theorem supervisionExpiryHoldsOrResets : Obligations.SupervisionExpiryHoldsOrResets := by
  intro s
  have row : exec .supervisionExpiry s = execSupervisionExpiry s := rfl
  refine ⟨fun elapsed awake action => ?hold, fun elapsed awake action => ?reset,
    fun _ => exec_supervisionExpiry_running⟩
  case hold =>
    rw [row, execSupervisionExpiry, if_pos ⟨elapsed, awake⟩, action]
    rfl
  case reset => rw [row, execSupervisionExpiry, if_pos ⟨elapsed, awake⟩, action, State.fullReset_eq]

end Sys2Proof.Machine
end

section
/-! SUPPORT. The step on a queue that is not empty (O1), and the standing laws of O53 to O59 after a power-on reset (O60): the laws of single lines, of the tables and the channels, and of the storage. -/

namespace Sys2Proof.Machine

/-! ### The step -/

/-- Settles O1, by `step_front`. -/
theorem stepRunsTheFrontCommand : Obligations.StepRunsTheFrontCommand := fun _ _ _ => step_front

/-! ### Lines -/

/-- A law of single lines holds after reset when a line at its reset values obeys it. -/
theorem State.EachLine.reset {L : Line → Prop} (h : L .reset) : State.reset.EachLine L := fun n => by
  rw [reset_line]
  exact h

/-- Nothing is queued, staged, awaiting execution or awaiting its answer (R40, R129, R168). -/
theorem reset_queuesBounded : State.reset.QueuesBounded :=
  ⟨State.EachLine.reset (L := fun l => l.downQueue.length ≤ Config.downQueueSize ∧ l.stageCount ≤ Config.stageSize)
    ⟨Nat.zero_le _, Nat.zero_le _⟩, Nat.zero_le _, Nat.zero_le _⟩

/-- No line holds an upstream block (R75). -/
theorem reset_quotasKept : State.reset.QuotasKept :=
  State.EachLine.reset (L := fun l => l.upBlocks ≤ l.params.quota) (Nat.zero_le _)

theorem reset_transmittersSound : State.reset.TransmittersSound :=
  State.reset.transmittersSound_iff.mpr (.reset Line.TransmitterSound.kept.reset)

theorem reset_assemblersSound : State.reset.AssemblersSound :=
  State.reset.assemblersSound_iff.mpr (.reset Line.AssemblerSound.kept.reset)

/-! ### Stations -/

/-- No entry is valid (R50). -/
theorem reset_stationsUnique : State.reset.StationsUnique := by
  intro j _ valid
  rw [reset_station] at valid
  cases valid

/-- No line is SELECTED (R40). -/
theorem reset_selectionsHold : State.reset.SelectionsHold := by
  intro n _ selected
  rw [reset_line] at selected
  cases selected

/-! ### Channels -/

/-- A channel is MASKED, with a base count of 1 and a count of 0 (R150). -/
theorem reset_countsLawful : State.reset.CountsLawful := by
  refine State.reset.countsLawful_iff.mpr fun c => ?_
  rw [reset_chan]
  exact ⟨Nat.le_refl 1, Nat.zero_le 1, nofun⟩

/-- No channel is outstanding (R150). -/
theorem reset_outstanding (c : ChannelNo) : (State.reset.chan c).outstanding = false :=
  congrArg Channel.outstanding (reset_chan c)

/-- No line has an errand, no channel is outstanding, and the Downstream Parser reads no record (R129, R150). -/
theorem reset_pollRecordsSound : State.reset.PollRecordsSound :=
  State.reset.pollRecordsSound_iff.mpr (.clear (fun n => congrArg Line.errands (reset_line n)) reset_outstanding rfl)

/-! ### Storage, and all the laws -/

/-- Every block and every descriptor is free (R89). -/
theorem reset_freeStorage : State.reset.buffer.freeStorage = wholeStorage := by
  simp only [Buffer.freeStorage, State.reset, Buffer.reset, wholeStorage]

/-- No record holds a block or a descriptor. -/
theorem reset_storageConserved : State.reset.StorageConserved :=
  have free := State.storage_free (s := State.reset) (fun n => congrArg Line.storage (reset_line n)) rfl
  State.reset.storageConserved_iff.mpr (free.trans reset_freeStorage)

/-- Settles O60, law by law: an unwritten Shared Buffer is in canonical form, the streams are STOPPED, and of the
conditions RESTARTED alone is present, with a count of 1 (`Events.reset_counted`). -/
theorem resetObeysEveryLaw : Obligations.ResetObeysEveryLaw :=
  have canonical : State.reset.CellsCanonical := rfl
  have streams : State.reset.StreamsEnabled := .of_stopped rfl
  have counted : State.reset.EventsCounted := Events.reset_counted .power
  ⟨canonical, reset_storageConserved, reset_queuesBounded, reset_quotasKept, reset_stationsUnique,
    reset_selectionsHold, reset_countsLawful, .clear reset_outstanding, reset_pollRecordsSound,
    reset_transmittersSound, reset_assemblersSound, streams, counted⟩

end Sys2Proof.Machine
end
